-- ==== Sys2Proof/Word.lean ====
section
/-! DEFINITION. The value types of the block: bits, 32-bit stream words, and three-index tensors
(00_scope.md R9 to R11). A bit is a `Bool`: `true` is 1 and
`false` is 0; as a signed unit, 1 stands for +1 and 0 for −1 (R12). -/

namespace Sys2Proof

/-- A stream word of `BUS_WIDTH` = 32 bits, bit 0 the least significant (R9). -/
abbrev Word := BitVec 32

/-- A tensor of shape `[C][H][W]`, indexed channel, row, column (R11). -/
abbrev Tensor3 (α : Type) (C H W : Nat) := Vector (Vector (Vector α W) H) C

/-- A view of a tensor of shape `[C][H][W]` as the total function on index triples that R11 describes. -/
abbrev Map3 (α : Type) (C H W : Nat) := Fin C → Fin H → Fin W → α

/-- The image of one classification, `BitTensor[1,16,16]` (R27). -/
abbrev Image := Map3 Bool 1 16 16

end Sys2Proof
end

