-- ==== Sys2Proof/Config.lean ====
section
/-! DEFINITION. The open parameters of the block (00_scope.md R8): the constant store `CFG` (10_state.md R40),
the threshold width `THR_BITS` (D9) and the number of instances `NINST` (D18). Each is an opaque constant with
no value Lean can evaluate, so a theorem about the machine holds for every well-formed configuration (U13).
DESIGN CHOICE (log 6). Safe. -/

namespace Sys2Proof.Config

/-- The six tables of the constant store (R40). -/
inductive Table where
  | w1 | t1 | w2 | t2 | wd1 | wd2
  deriving DecidableEq, Repr

/-- The constant store `CFG` (R40). The shapes are fixed by the type and a threshold is a two's complement number of
`thrBits` bits (R98), so a value of this type is a well-formed configuration (R41). -/
structure Store (thrBits : Nat) where
  /-- `CFG.W1[m][n][r][c]`: input channel, output channel, kernel row, kernel column. -/
  w1 : Fin 1 → Fin 16 → Fin 3 → Fin 3 → Bool
  /-- `CFG.T1[n]`. -/
  t1 : Fin 16 → BitVec thrBits
  /-- `CFG.W2[m][n][r][c]`. -/
  w2 : Fin 16 → Fin 32 → Fin 3 → Fin 3 → Bool
  /-- `CFG.T2[n]`. -/
  t2 : Fin 32 → BitVec thrBits
  /-- `CFG.WD1[m][n]`: input unit, output unit. The input unit is a flat position (R173). -/
  wd1 : Fin 512 → Fin 256 → Bool
  /-- `CFG.WD2[m][n]`. -/
  wd2 : Fin 256 → Fin 10 → Bool
  deriving Inhabited

/-- `THR_BITS − 1`, any natural number. -/
opaque thrBitsLessOne : Nat

/-- `THR_BITS`, the width of a stored threshold, an integer at least 1 (R8, D9). -/
def thrBits : Nat := thrBitsLessOne + 1

/-- `NINST − 1`, any natural number. -/
opaque ninstLessOne : Nat

/-- `NINST`, the number of independent engine instances, at least 1 (R8, D18). -/
def ninst : Nat := ninstLessOne + 1

/-- The configuration the instances were built with (R40, R42): no operation and no host action writes it. -/
opaque store : Store thrBits

/-- Raw tables, as whoever builds the machine may hand them over before they are checked (R41). -/
structure RawStore where
  w1 : List (List (List (List Bool)))
  t1 : List Int
  w2 : List (List (List (List Bool)))
  t2 : List Int
  wd1 : List (List Bool)
  wd2 : List (List Bool)
  deriving DecidableEq, Repr

end Sys2Proof.Config
end

