-- ==== Sys2Proof/Syntax.lean ====
section
/-! DEFINITION. The thirteen sequencer operations, one constructor per row of spec/opcode_table.json
(30_encoding.md R100). No operation has an encoded operand (R103). -/

namespace Sys2Proof

/-- The operation map of R100, in pipeline order. -/
inductive Instr where
  /-- code 0, `LOAD`: consume one image word (R215). -/
  | load
  /-- code 1, `PAD1`: pad the image (R121). -/
  | pad1
  /-- code 2, `CONV1`: first convolution (R141). -/
  | conv1
  /-- code 3, `POOL1`: first pooling (R161). -/
  | pool1
  /-- code 4, `PAD2`: pad the pooled map (R122). -/
  | pad2
  /-- code 5, `CONV2`: second convolution (R142). -/
  | conv2
  /-- code 6, `POOL2`: second pooling (R162). -/
  | pool2
  /-- code 7, `FLATTEN`: reorder into the dense input vector (R171). -/
  | flatten
  /-- code 8, `DENSE1`: first dense layer (R181). -/
  | dense1
  /-- code 9, `SIGN`: binarise (R195). -/
  | sign
  /-- code 10, `DENSE2`: class scores (R182). -/
  | dense2
  /-- code 11, `ARGMAX`: select the class (R200). -/
  | argmax
  /-- code 12, `EMIT`: send the result word (R219). -/
  | emit
  deriving DecidableEq, Repr

end Sys2Proof
end

