-- ==== Sys2Proof/WellFormed.lean ====
section
/-! DEFINITION. Well-formedness: of an operation (which has no operand that could be wrong, 30_encoding.md R103), of a
sequencer code (R102) and of a raw configuration (10_state.md R41). -/

namespace Sys2Proof

/-- An operation carries no operand (R103), so each of the thirteen is well formed. -/
def Instr.wf : Instr → Bool
  | .load | .pad1 | .conv1 | .pool1 | .pad2 | .conv2 | .pool2 | .flatten | .dense1 | .sign | .dense2 | .argmax | .emit => true

/-- The legal sequencer codes are 0 to 12; 13 to 15 select nothing (R102). -/
def seqLegal (code : BitVec 4) : Bool := code.toNat ≤ 12

namespace Config

/-- A two-index table has the shape `[a][b]`. -/
def hasShape2 (a b : Nat) (t : List (List Bool)) : Bool :=
  t.length == a && t.all fun row => row.length == b

/-- A kernel table has the shape `[m][n][r][c]`. -/
def hasShape4 (m n r c : Nat) (t : List (List (List (List Bool)))) : Bool :=
  t.length == m && t.all fun u => u.length == n && u.all fun v => hasShape2 r c v

/-- A threshold fits `THR_BITS` bits: −2^(b−1) to 2^(b−1) − 1 (R41). -/
def thresholdFits (b : Nat) (t : Int) : Bool :=
  -(2 ^ (b - 1) : Int) ≤ t && t ≤ 2 ^ (b - 1) - 1

/-- A threshold vector has `n` elements, each in range. -/
def thresholdsOk (b n : Nat) (t : List Int) : Bool :=
  t.length == n && t.all (thresholdFits b)

/-- The check of one table of a raw configuration against R40 and R41. -/
def RawStore.tableOk (b : Nat) (raw : RawStore) : Table → Bool
  | .w1 => hasShape4 1 16 3 3 raw.w1
  | .t1 => thresholdsOk b 16 raw.t1
  | .w2 => hasShape4 16 32 3 3 raw.w2
  | .t2 => thresholdsOk b 32 raw.t2
  | .wd1 => hasShape2 512 256 raw.wd1
  | .wd2 => hasShape2 256 10 raw.wd2

/-- The six tables, in the order of the table of R40. -/
def Table.all : List Table := [.w1, .t1, .w2, .t2, .wd1, .wd2]

/-- A raw configuration is well formed when `THR_BITS` is at least 1 (R8) and each of the six tables is (R41). -/
def RawStore.wf (b : Nat) (raw : RawStore) : Bool :=
  1 ≤ b && Table.all.all (raw.tableOk b)

end Config

end Sys2Proof
end

