-- ==== Sys2Proof/Decode.lean ====
section
/-! DEFINITION. The format `SEQ4` (30_encoding.md R100 to R102): the decoder of the sequencer's 4-bit code, total on the
sixteen codes, and the encoder. -/

namespace Sys2Proof

/-- The operation a code selects; the codes 13, 14 and 15 select nothing (R100, R102). -/
def decodeSeq (code : BitVec 4) : Option Instr :=
  match code.toNat with
  | 0 => some .load
  | 1 => some .pad1
  | 2 => some .conv1
  | 3 => some .pool1
  | 4 => some .pad2
  | 5 => some .conv2
  | 6 => some .pool2
  | 7 => some .flatten
  | 8 => some .dense1
  | 9 => some .sign
  | 10 => some .dense2
  | 11 => some .argmax
  | 12 => some .emit
  | _ => none

/-- The code of an operation (R100). -/
def encode : Instr → BitVec 4
  | .load => 0b0000#4
  | .pad1 => 0b0001#4
  | .conv1 => 0b0010#4
  | .pool1 => 0b0011#4
  | .pad2 => 0b0100#4
  | .conv2 => 0b0101#4
  | .pool2 => 0b0110#4
  | .flatten => 0b0111#4
  | .dense1 => 0b1000#4
  | .sign => 0b1001#4
  | .dense2 => 0b1010#4
  | .argmax => 0b1011#4
  | .emit => 0b1100#4

/-- Bits 3:0 of a table row's word are the whole of the format: the mask is `0xF` (R101, R108). -/
def seqField (w : Nat) : BitVec 4 := BitVec.ofNat 4 w

/-- The operation the decoder reads from a table row's word of `nbits` bits: every row's code is its bits 3:0 (R101). -/
def decodeTableWord (_nbits w : Nat) : Option Instr := decodeSeq (seqField w)

end Sys2Proof
end

