-- ==== Sys2Proof/Machine/State.lean ====
section
/-! DEFINITION. The whole state of one engine instance (10_state.md R20), as plain data, its reset value (R45), and the
named reasons a step can stop (60_exceptions.md). The spec's `⊥`, an element that holds no value (00_scope.md R13), is
`none`: it is a value of the spec's own state, the one R45 gives every buffer element and `RESULT` at reset and R39 gives
them at the first word of every image. DESIGN CHOICE (log 1): reading it is a fault. Safe. There is no byte-addressed memory:
DEDUCED (log 11). Safe. -/

namespace Sys2Proof.Machine

/-- A bit buffer of shape `[C][H][W]`; `none` is `⊥`. -/
abbrev BitBuffer (C H W : Nat) := Tensor3 (Option Bool) C H W

/-- A vector buffer of shape `[n]` with elements in `α`; `none` is `⊥`. -/
abbrev VecBuffer (α : Type) (n : Nat) := Vector (Option α) n

/-- The places an operation reads or writes (R20), named for the fault `UnwrittenRead` and for the wiring of R103. -/
inductive Buffer where
  | img | padbuf1 | fmC1 | fmP1 | padbuf2 | fmC2 | fmP2 | flat | dv1 | act1 | dv2 | result | inQ | outQ
  deriving DecidableEq, Repr

structure State where
  /-- `SEQ` (R23): the code of the operation of the next step. -/
  seq : BitVec 4
  /-- `WCNT` (R24): words of the current image already consumed. -/
  wcnt : BitVec 3
  /-- `RESULT` (R22): the class index, or `⊥`. -/
  result : Option (BitVec 4)
  /-- `IMG` (R27). -/
  img : BitBuffer 1 16 16
  /-- `PADBUF1` (R28). -/
  padbuf1 : BitBuffer 1 18 18
  /-- `FM_C1` (R29). -/
  fmC1 : BitBuffer 16 16 16
  /-- `FM_P1` (R30). -/
  fmP1 : BitBuffer 16 8 8
  /-- `PADBUF2` (R31). -/
  padbuf2 : BitBuffer 16 10 10
  /-- `FM_C2` (R32). -/
  fmC2 : BitBuffer 32 8 8
  /-- `FM_P2` (R33). -/
  fmP2 : BitBuffer 32 4 4
  /-- `FLAT` (R34). -/
  flat : VecBuffer Bool 512
  /-- `DV1` (R35), stored as unbounded integers. DESIGN CHOICE (log 5). Safe. -/
  dv1 : VecBuffer Int 256
  /-- `ACT1` (R36). -/
  act1 : VecBuffer Bool 256
  /-- `DV2` (R37), stored as unbounded integers. DESIGN CHOICE (log 5). Safe. -/
  dv2 : VecBuffer Int 10
  /-- `IN_Q` (R43), oldest word first. -/
  inQ : List Word
  /-- `OUT_Q` (R43), oldest word first. -/
  outQ : List Word
  deriving DecidableEq, Repr

/-- The two model faults (60_exceptions.md R246, R247). A fault stops the instance for good (R252). -/
inductive Fault where
  /-- Raised by the element reads of Machine/Ops.lean and so by every stage and `EMIT`, when an element of the operation's
  source is `⊥` (R246). Safe: the hardware would go on with whatever the storage holds. -/
  | unwrittenRead (buffer : Buffer) (index : List Nat)
  /-- Raised by `step` when `SEQ` holds 13, 14 or 15 (R247). Safe: no run reaches it (R23). -/
  | badSeq (code : BitVec 4)
  deriving DecidableEq, Repr

/-- Reasons the model gives no machine or no meaning. -/
inductive Refusal where
  /-- Raised by an arm of `exec` for an operation without a meaning: none is left. Safe. -/
  | notModelled (mnemonic : String)
  /-- Raised by `Sys2Proof.Machine.loadStore` when a raw table of the constant store is ill formed, before there is a
  machine (R242); no step raises it. Safe: nothing can be claimed of a refused configuration. -/
  | configurationError (table : Config.Table)
  /-- Raised by `Sys2Proof.Machine.loadStore` when `THR_BITS` is 0, which R8 excludes; no step raises it. DESIGN CHOICE
  (log 12). Safe. -/
  | thrBitsZero
  deriving DecidableEq, Repr

/-- A bit buffer whose every element is `⊥`. -/
def unwritten3 (C H W : Nat) : BitBuffer C H W :=
  Vector.replicate C (Vector.replicate H (Vector.replicate W none))

/-- A vector buffer whose every element is `⊥`. -/
def unwritten1 (α : Type) (n : Nat) : VecBuffer α n := Vector.replicate n none

/-- The state after reset (R45): `SEQ` = 0 (`LOAD`), `WCNT` = 0, `RESULT` and every buffer element `⊥`, both streams
empty. -/
def State.reset : State where
  seq := 0
  wcnt := 0
  result := none
  img := unwritten3 1 16 16
  padbuf1 := unwritten3 1 18 18
  fmC1 := unwritten3 16 16 16
  fmP1 := unwritten3 16 8 8
  padbuf2 := unwritten3 16 10 10
  fmC2 := unwritten3 32 8 8
  fmP2 := unwritten3 32 4 4
  flat := unwritten1 Bool 512
  dv1 := unwritten1 Int 256
  act1 := unwritten1 Bool 256
  dv2 := unwritten1 Int 10
  inQ := []
  outQ := []

end Sys2Proof.Machine
end

