-- ==== Sys2Proof/Machine/Ops.lean ====
section
/-! DEFINITION. The named operations over buffers, registers and streams: the primitives of 00_scope.md R14, the buffer
accesses of 40_bit_tensor_buffer_pad.md R120, the invalidation of 10_state.md R39, the stream accesses of R43, the raising
of a model fault (60_exceptions.md R252) and the selection of the next operation (47_network_inference_pipeline.md R213). -/

namespace Sys2Proof.Machine

/-- The element of a vector at an index inside its shape. -/
def get1 {α : Type} {n : Nat} (v : Vector α n) (i : Fin n) : α := v[i.val]

/-- The element `t[c][y][x]` of a tensor (R11). -/
def get3 {α : Type} {C H W : Nat} (t : Tensor3 α C H W) (c : Fin C) (y : Fin H) (x : Fin W) : α :=
  get1 (get1 (get1 t c) y) x

/-- The vector whose element `i` is `f i`: "for all i: B[i] <- e(i)" (R14). -/
def tab1 {α : Type} {n : Nat} (f : Fin n → α) : Vector α n := ⟨⟨List.ofFn f⟩, List.length_ofFn⟩

/-- The tensor whose element `(c, y, x)` is `f c y x`: simultaneous assignment of every element (R14). -/
def tab3 {α : Type} {C H W : Nat} (f : Map3 α C H W) : Tensor3 α C H W :=
  tab1 fun c => tab1 fun y => tab1 fun x => f c y x

/-- The vector with a function applied to every element. -/
def map1 {α β : Type} {n : Nat} (f : α → β) (v : Vector α n) : Vector β n :=
  ⟨⟨v.toList.map f⟩, by simp⟩

/-- A vector with one element replaced. -/
def set1 {α : Type} {n : Nat} (v : Vector α n) (i : Fin n) (a : α) : Vector α n := v.set i.val a

/-- A tensor with one element replaced. -/
def set3 {α : Type} {C H W : Nat} (t : Tensor3 α C H W) (c : Fin C) (y : Fin H) (x : Fin W) (a : α) : Tensor3 α C H W :=
  set1 t c (set1 (get1 t c) y (set1 (get1 (get1 t c) y) x a))

/-- A bit buffer every element of which holds the bit `f` gives. -/
def written3 {C H W : Nat} (f : Map3 Bool C H W) : BitBuffer C H W := tab3 fun c y x => some (f c y x)

/-- A vector buffer every element of which holds the value `f` gives. -/
def written1 {α : Type} {n : Nat} (f : Fin n → α) : VecBuffer α n := tab1 fun i => some (f i)

/-- The read of one element: its value, or the fault `UnwrittenRead` with the buffer and the index when it is `⊥` (R120). -/
def readElement {α : Type} (buffer : Buffer) (index : List Nat) (e : Option α) : Except Fault α :=
  match e with
  | some v => .ok v
  | none => .error (.unwrittenRead buffer index)

/-- `MemRead(B, (c, y, x), 1)` of a bit buffer: the bit last written there (R120). -/
def memRead3 {C H W : Nat} (buffer : Buffer) (b : BitBuffer C H W) (c : Fin C) (y : Fin H) (x : Fin W) : Except Fault Bool :=
  readElement buffer [c.val, y.val, x.val] (get3 b c y x)

/-- `MemRead(B, i, 1)` of a vector buffer (R14, R120). -/
def memRead1 {α : Type} {n : Nat} (buffer : Buffer) (b : VecBuffer α n) (i : Fin n) : Except Fault α :=
  readElement buffer [i.val] (get1 b i)

/-- The read of the register `RESULT`, which has no index. -/
def readRegister {α : Type} (buffer : Buffer) (r : Option α) : Except Fault α := readElement buffer [] r

/-- `MemWrite(B, (c, y, x), 1, v)`: that element and no other changes (R120). -/
def memWrite3 {C H W : Nat} (b : BitBuffer C H W) (c : Fin C) (y : Fin H) (x : Fin W) (v : Bool) : BitBuffer C H W :=
  set3 b c y x (some v)

/-- The path to the first entry of a list, counted from `k`, in which `find` finds something. -/
def firstPath {α : Type} (find : α → Option (List Nat)) (k : Nat) : List α → Option (List Nat)
  | [] => none
  | a :: rest =>
    match find a with
    | some path => some (k :: path)
    | none => firstPath find (k + 1) rest

/-- The empty path when an element is `⊥`. -/
def botPath {α : Type} (e : Option α) : Option (List Nat) := if e.isNone then some [] else none

/-- The index of the first `⊥` of a vector buffer. -/
def firstBot1 {α : Type} {n : Nat} (b : VecBuffer α n) : Option (List Nat) := firstPath botPath 0 b.toList

/-- The index triple of the first `⊥` of a bit buffer in row-major order (R62). DESIGN CHOICE (log 3): the order of reading.
Safe: it only decides which `⊥` index a fault names. -/
def firstBot3 {C H W : Nat} (b : BitBuffer C H W) : Option (List Nat) :=
  firstPath (fun plane => firstPath firstBot1 0 plane.toList) 0 b.toList

/-- The read of a whole bit buffer by a stage. Every stage reads every element of its source (R61, R65), so it faults
exactly when one of them is `⊥`; otherwise it sees the complete map (R71). DEDUCED (log 13): one atomic read. Safe. -/
def readAll3 {C H W : Nat} (buffer : Buffer) (b : BitBuffer C H W) : Except Fault (Map3 Bool C H W) :=
  match firstBot3 b with
  | none => .ok fun c y x => (get3 b c y x).getD false
  | some index => .error (.unwrittenRead buffer index)

/-- The read of a whole vector buffer by a stage. -/
def readAll1 {α : Type} [Inhabited α] {n : Nat} (buffer : Buffer) (b : VecBuffer α n) : Except Fault (Fin n → α) :=
  match firstBot1 b with
  | none => .ok fun i => (get1 b i).getD default
  | some index => .error (.unwrittenRead buffer index)

/-- `raise <Exception>(info)` (R14): leave the run with the named fault. Nothing else changes: no state is saved, no mode
is entered and no handler runs (R252). -/
def raise (f : Fault) : Host.Outcome State Fault Refusal := .fault f

/-- An operation whose source read gave `v` steps to `k v`; one whose source read met a `⊥` raises the fault. -/
def onSource {α : Type} (source : Except Fault α) (k : α → State) : Host.Outcome State Fault Refusal :=
  match source with
  | .ok v => .next (k v)
  | .error f => raise f

/-- Every element of the eleven buffers and `RESULT` become `⊥` (R39). -/
def State.invalidate (s : State) : State :=
  { s with
    result := none
    img := unwritten3 1 16 16
    padbuf1 := unwritten3 1 18 18
    fmC1 := unwritten3 16 16 16
    fmP1 := unwritten3 16 8 8
    padbuf2 := unwritten3 16 10 10
    fmC2 := unwritten3 32 8 8
    fmP2 := unwritten3 32 4 4
    flat := unwritten1 Bool 512
    dv1 := unwritten1 Int 256
    act1 := unwritten1 Bool 256
    dv2 := unwritten1 Int 10 }

/-- `pop(IN_Q)`: the oldest word and the state without it, when the stream is not empty (R14, R43). -/
def State.popIn (s : State) : Option (Word × State) :=
  match s.inQ with
  | [] => none
  | w :: rest => some (w, { s with inQ := rest })

/-- `push(OUT_Q, w)`: `w` becomes the newest word of the output stream (R14, R43). -/
def State.pushOut (s : State) (w : Word) : State := { s with outQ := s.outQ ++ [w] }

/-- `zext_32` of the class index: the result word `RESWORD` (30_encoding.md R96). -/
def resultWord (r : BitVec 4) : Word := r.setWidth 32

/-- The operation whose code is in `SEQ` (R213). -/
def fetch (s : State) : Option Instr := decodeSeq s.seq

end Sys2Proof.Machine
end

