-- ==== Sys2Proof/Machine/Flags.lean ====
section
/-! DEFINITION. The block has no flag and no status bit (10_state.md R25). What a processor's flags would serve is the one
comparison its three deciding operations make and consume on the spot: a strict signed comparison of exact integers
(41_binarized_conv_engine.md R144, 45_sign_activation.md R195, 46_argmax_classifier.md R200, 70_reset_and_hazards.md R287). -/

namespace Sys2Proof.Machine

/-- `a > b` on ℤ, strict: a tie is not a win (R287). -/
def exceeds (a b : Int) : Bool := decide (b < a)

end Sys2Proof.Machine
end

