-- ==== Sys2Proof/Machine/Operands.lean ====
section
/-! DEFINITION. The wired operands of the operations (30_encoding.md R103, 20_memory.md R61): source, destination and
constant tables, and the reads of the sources. No operand is encoded; no index depends on data. -/

namespace Sys2Proof

/-- The one source of an operation (R61, R103). -/
def Instr.source : Instr → Machine.Buffer
  | .load => .inQ
  | .pad1 => .img
  | .conv1 => .padbuf1
  | .pool1 => .fmC1
  | .pad2 => .fmP1
  | .conv2 => .padbuf2
  | .pool2 => .fmC2
  | .flatten => .fmP2
  | .dense1 => .flat
  | .sign => .dv1
  | .dense2 => .act1
  | .argmax => .dv2
  | .emit => .result

/-- The one destination of an operation (R61, R103). -/
def Instr.dest : Instr → Machine.Buffer
  | .load => .img
  | .pad1 => .padbuf1
  | .conv1 => .fmC1
  | .pool1 => .fmP1
  | .pad2 => .padbuf2
  | .conv2 => .fmC2
  | .pool2 => .fmP2
  | .flatten => .flat
  | .dense1 => .dv1
  | .sign => .act1
  | .dense2 => .dv2
  | .argmax => .result
  | .emit => .outQ

/-- The constant tables an operation reads (R103). -/
def Instr.tables : Instr → List Config.Table
  | .conv1 => [.w1, .t1]
  | .conv2 => [.w2, .t2]
  | .dense1 => [.wd1]
  | .dense2 => [.wd2]
  | .load | .pad1 | .pool1 | .pad2 | .pool2 | .flatten | .sign | .argmax | .emit => []

namespace Machine

/-- The source of `PAD1`. -/
def State.readImg (s : State) : Except Fault (Map3 Bool 1 16 16) := readAll3 .img s.img
/-- The source of `CONV1`. -/
def State.readPadbuf1 (s : State) : Except Fault (Map3 Bool 1 18 18) := readAll3 .padbuf1 s.padbuf1
/-- The source of `POOL1`. -/
def State.readFmC1 (s : State) : Except Fault (Map3 Bool 16 16 16) := readAll3 .fmC1 s.fmC1
/-- The source of `PAD2`. -/
def State.readFmP1 (s : State) : Except Fault (Map3 Bool 16 8 8) := readAll3 .fmP1 s.fmP1
/-- The source of `CONV2`. -/
def State.readPadbuf2 (s : State) : Except Fault (Map3 Bool 16 10 10) := readAll3 .padbuf2 s.padbuf2
/-- The source of `POOL2`. -/
def State.readFmC2 (s : State) : Except Fault (Map3 Bool 32 8 8) := readAll3 .fmC2 s.fmC2
/-- The source of `FLATTEN`. -/
def State.readFmP2 (s : State) : Except Fault (Map3 Bool 32 4 4) := readAll3 .fmP2 s.fmP2
/-- The source of `DENSE1`. -/
def State.readFlat (s : State) : Except Fault (Fin 512 → Bool) := readAll1 .flat s.flat
/-- The source of `SIGN`. -/
def State.readDv1 (s : State) : Except Fault (Fin 256 → Int) := readAll1 .dv1 s.dv1
/-- The source of `DENSE2`. -/
def State.readAct1 (s : State) : Except Fault (Fin 256 → Bool) := readAll1 .act1 s.act1
/-- The source of `ARGMAX`. -/
def State.readDv2 (s : State) : Except Fault (Fin 10 → Int) := readAll1 .dv2 s.dv2
/-- The source of `EMIT`. -/
def State.readResult (s : State) : Except Fault (BitVec 4) := readRegister .result s.result

end Machine

end Sys2Proof
end

