-- ==== Sys2Proof/Machine/Argmax.lean ====
section
/-! DEFINITION. The class selection `ARGMAX` (46_argmax_classifier.md). -/

namespace Sys2Proof.Machine

/-- One iteration of the scan (R200): the pair is `(best, besti)`, replaced only by a strictly greater score. -/
def argmaxStep (scores : Fin 10 → Int) (acc : Int × Fin 10) (i : Fin 10) : Int × Fin 10 :=
  if exceeds (scores i) acc.1 then (scores i, i) else acc

/-- `argmax` (R200): scan the indices 1 to 9 in order, starting from element 0 itself. -/
def argmaxIndex (scores : Fin 10 → Int) : Fin 10 :=
  (([1, 2, 3, 4, 5, 6, 7, 8, 9] : List (Fin 10)).foldl (argmaxStep scores) (scores 0, 0)).2

/-- The class index as the 4-bit register holds it (10_state.md R22). -/
def classCode (i : Fin 10) : BitVec 4 := BitVec.ofNat 4 i.val

/-- `ARGMAX` (R200). -/
def execArgmax (s : State) : Host.Outcome State Fault Refusal :=
  onSource s.readDv2 fun v => { s with result := some (classCode (argmaxIndex v)), seq := 12 }

end Sys2Proof.Machine
end

