-- ==== Sys2Proof/Machine/Conv.lean ====
section
/-! DEFINITION. The binarized convolutions `CONV1` and `CONV2` (41_binarized_conv_engine.md), in the independent-window
form that R145 makes normative. -/

namespace Sys2Proof.Machine

/-- `xnor(a, b)`: 1 when the bits are equal and 0 otherwise, summed as a number (00_scope.md R12). -/
def xnor (a b : Bool) : Nat := if a = b then 1 else 0

/-- `agree` of output position `(y, x)` (R140): the number of equal bit pairs of the 3×3 window at `(y, x)` and the
kernel, over all input channels. The kernel is not flipped and the stride is 1. -/
def agree {M O : Nat} (input : Map3 Bool M (O + 2) (O + 2)) (kernel : Fin M → Fin 3 → Fin 3 → Bool) (y x : Fin O) : Nat :=
  ∑ m : Fin M, ∑ r : Fin 3, ∑ c : Fin 3,
    xnor (input m ⟨y.val + r.val, by omega⟩ ⟨x.val + c.val, by omega⟩) (kernel m r c)

/-- `vote = 2·agree − F·F·M`, exact in ℤ (R143). -/
def vote {M O : Nat} (input : Map3 Bool M (O + 2) (O + 2)) (kernel : Fin M → Fin 3 → Fin 3 → Bool) (y x : Fin O) : Int :=
  2 * (agree input kernel y x : Int) - 3 * 3 * M

/-- `conv` (R140, R144): the output bit of channel `n` is 1 exactly when its vote strictly exceeds its threshold. -/
def convMap {M N O : Nat} (weights : Fin M → Fin N → Fin 3 → Fin 3 → Bool) (threshold : Fin N → Int)
    (input : Map3 Bool M (O + 2) (O + 2)) : Map3 Bool N O O := fun n y x =>
  exceeds (vote input (fun m => weights m n) y x) (threshold n)

/-- `CONV1` under a given constant store (R141). -/
def conv1With {b : Nat} (cfg : Config.Store b) (s : State) : Host.Outcome State Fault Refusal :=
  onSource s.readPadbuf1 fun a =>
    { s with fmC1 := written3 (convMap (O := 16) cfg.w1 (fun n => (cfg.t1 n).toInt) a), seq := 3 }

/-- `CONV2` under a given constant store (R142). -/
def conv2With {b : Nat} (cfg : Config.Store b) (s : State) : Host.Outcome State Fault Refusal :=
  onSource s.readPadbuf2 fun a =>
    { s with fmC2 := written3 (convMap (O := 8) cfg.w2 (fun n => (cfg.t2 n).toInt) a), seq := 6 }

/-- `CONV1` (R141). -/
def execConv1 (s : State) : Host.Outcome State Fault Refusal := conv1With Config.store s

/-- `CONV2` (R142). -/
def execConv2 (s : State) : Host.Outcome State Fault Refusal := conv2With Config.store s

end Sys2Proof.Machine
end

