-- ==== Sys2Proof/Machine/Dense.lean ====
section
/-! DEFINITION. The binarized dense products `DENSE1` and `DENSE2` (44_binarized_dense_matmul.md). -/

namespace Sys2Proof.Machine

/-- `accum` of one output unit (R180): the number of positions where input and weight column are equal. -/
def accum {M : Nat} (input column : Fin M → Bool) : Nat := ∑ m : Fin M, xnor (input m) (column m)

/-- `dense` (R180, R183): `2·accum − M`, exact in ℤ, with no threshold, bias or scaling. -/
def denseMap {M N : Nat} (weights : Fin M → Fin N → Bool) (input : Fin M → Bool) : Fin N → Int := fun n =>
  2 * (accum input (fun m => weights m n) : Int) - M

/-- `DENSE1` under a given constant store (R181). -/
def dense1With {b : Nat} (cfg : Config.Store b) (s : State) : Host.Outcome State Fault Refusal :=
  onSource s.readFlat fun v => { s with dv1 := written1 (denseMap cfg.wd1 v), seq := 9 }

/-- `DENSE2` under a given constant store (R182). -/
def dense2With {b : Nat} (cfg : Config.Store b) (s : State) : Host.Outcome State Fault Refusal :=
  onSource s.readAct1 fun v => { s with dv2 := written1 (denseMap cfg.wd2 v), seq := 11 }

/-- `DENSE1` (R181). -/
def execDense1 (s : State) : Host.Outcome State Fault Refusal := dense1With Config.store s

/-- `DENSE2` (R182). -/
def execDense2 (s : State) : Host.Outcome State Fault Refusal := dense2With Config.store s

end Sys2Proof.Machine
end

