-- ==== Sys2Proof/Machine/Flatten.lean ====
section
/-! DEFINITION. The reindexing operation `FLATTEN` (43_flatten.md). -/

namespace Sys2Proof.Machine

/-- The flat position of element `(c, y, x)`: channel fastest, then column, then row (R170). -/
def flatIndex (c : Fin 32) (y x : Fin 4) : Fin 512 := ⟨c.val + (x.val + 4 * y.val) * 32, by omega⟩

/-- `flatten` (R171), written by the inverse index map of R170: position `i` holds element
`(i mod 32, i div 128, (i div 32) mod 4)`. -/
def flattenMap (input : Map3 Bool 32 4 4) : Fin 512 → Bool := fun i =>
  input ⟨i.val % 32, by omega⟩ ⟨i.val / 128, by omega⟩ ⟨i.val / 32 % 4, by omega⟩

/-- The inverse of `flatten` (R172): a helper of the spec's tests, not an operation of the hardware. -/
def unflattenMap (v : Fin 512 → Bool) : Map3 Bool 32 4 4 := fun c y x => v (flatIndex c y x)

/-- `FLATTEN` (R171). -/
def execFlatten (s : State) : Host.Outcome State Fault Refusal :=
  onSource s.readFmP2 fun a => { s with flat := written1 (flattenMap a), seq := 8 }

end Sys2Proof.Machine
end

