-- ==== Sys2Proof/Machine/Pad.lean ====
section
/-! DEFINITION. The padding operations `PAD1` and `PAD2` (40_bit_tensor_buffer_pad.md). -/

namespace Sys2Proof.Machine

/-- `pad` (R123, R124): the input in the centre, offset 1 in each spatial dimension, of a border of zero bits. -/
def padMap {M I : Nat} (input : Map3 Bool M I I) : Map3 Bool M (I + 2) (I + 2) := fun m Y X =>
  if h : (1 ≤ Y.val ∧ Y.val ≤ I) ∧ (1 ≤ X.val ∧ X.val ≤ I) then
    input m ⟨Y.val - 1, by omega⟩ ⟨X.val - 1, by omega⟩
  else false

/-- `PAD1` (R121). -/
def execPad1 (s : State) : Host.Outcome State Fault Refusal :=
  onSource s.readImg fun a => { s with padbuf1 := written3 (padMap (I := 16) a), seq := 2 }

/-- `PAD2` (R122). -/
def execPad2 (s : State) : Host.Outcome State Fault Refusal :=
  onSource s.readFmP1 fun a => { s with padbuf2 := written3 (padMap (I := 8) a), seq := 5 }

end Sys2Proof.Machine
end

