-- ==== Sys2Proof/Machine/Pool.lean ====
section
/-! DEFINITION. The pooling operations `POOL1` and `POOL2` (42_max_pool_reducer.md). -/

namespace Sys2Proof.Machine

/-- `max_pool` (R160): the OR of the four bits of each non-overlapping 2×2 window; `Q` is the output width `I / 2`. -/
def poolMap {M Q : Nat} (input : Map3 Bool M (2 * Q) (2 * Q)) : Map3 Bool M Q Q := fun m y x =>
  input m ⟨2 * y.val, by omega⟩ ⟨2 * x.val, by omega⟩ || input m ⟨2 * y.val, by omega⟩ ⟨2 * x.val + 1, by omega⟩ ||
    input m ⟨2 * y.val + 1, by omega⟩ ⟨2 * x.val, by omega⟩ || input m ⟨2 * y.val + 1, by omega⟩ ⟨2 * x.val + 1, by omega⟩

/-- `POOL1` (R161). -/
def execPool1 (s : State) : Host.Outcome State Fault Refusal :=
  onSource s.readFmC1 fun a => { s with fmP1 := written3 (poolMap (Q := 8) a), seq := 4 }

/-- `POOL2` (R162). -/
def execPool2 (s : State) : Host.Outcome State Fault Refusal :=
  onSource s.readFmC2 fun a => { s with fmP2 := written3 (poolMap (Q := 4) a), seq := 7 }

end Sys2Proof.Machine
end

