-- ==== Sys2Proof/Machine/Sign.lean ====
section
/-! DEFINITION. The sign activation `SIGN` (45_sign_activation.md). -/

namespace Sys2Proof.Machine

/-- `sign` (R195, R196): 1 exactly when the input is strictly positive, so that 0 maps to 0. -/
def signMap {M : Nat} (input : Fin M → Int) : Fin M → Bool := fun m => exceeds (input m) 0

/-- `SIGN` (R195). -/
def execSign (s : State) : Host.Outcome State Fault Refusal :=
  onSource s.readDv1 fun v => { s with act1 := written1 (signMap v), seq := 10 }

end Sys2Proof.Machine
end

