-- ==== Sys2Proof/Machine/Pipeline.lean ====
section
/-! DEFINITION. The operations `LOAD` and `EMIT`, and a classification as a function (47_network_inference_pipeline.md). -/

namespace Sys2Proof.Machine

/-- The scan position `p = 32·WCNT + j` of bit `j` of the word being consumed, as row and column `(p div 16, p mod 16)`
(R215, 20_memory.md R63). -/
def pixelOf (k : BitVec 3) (j : Fin 32) : Fin 16 × Fin 16 :=
  (⟨(32 * k.toNat + j.val) / 16, by have := k.isLt; omega⟩, ⟨(32 * k.toNat + j.val) % 16, by omega⟩)

/-- The 32 element writes of one image word into `IMG` (R215). -/
def writePixels (img : BitBuffer 1 16 16) (k : BitVec 3) (w : Word) : BitBuffer 1 16 16 :=
  (List.finRange 32).foldl (fun b j => memWrite3 b 0 (pixelOf k j).1 (pixelOf k j).2 (w.getLsbD j.val)) img

/-- `LOAD` once the word is popped (R215): the first word of an image makes every buffer and `RESULT` `⊥`, the 32 pixels
are written, and the counter wraps with the eighth word, when the next operation becomes `PAD1`. -/
def consumeWord (w : Word) (s : State) : State :=
  let fresh := if s.wcnt = 0 then s.invalidate else s
  let loaded := { fresh with img := writePixels fresh.img s.wcnt w }
  if s.wcnt = 7 then { loaded with wcnt := 0, seq := 1 } else { loaded with wcnt := s.wcnt + 1 }

/-- `LOAD` (R215). With `IN_Q` empty the operation has no step and the engine holds. DESIGN CHOICE (log 2): holding is a
step that changes nothing. Unsafe only for a claim that counts steps. -/
def execLoad (s : State) : Host.Outcome State Fault Refusal :=
  match s.popIn with
  | some (w, rest) => .next (consumeWord w rest)
  | none => .next s

/-- `EMIT` (R219). -/
def execEmit (s : State) : Host.Outcome State Fault Refusal :=
  onSource s.readResult fun r => { s.pushOut (resultWord r) with seq := 0 }

/-- The image eight words carry (20_memory.md R63): pixel `(y, x)` is bit `p mod 32` of word `p div 32`, `p = 16·y + x`. -/
def unpack (words : Vector Word 8) : Image := fun _ y x =>
  (get1 words ⟨(16 * y.val + x.val) / 32, by omega⟩).getLsbD ((16 * y.val + x.val) % 32)

/-- The pooled second feature map of an image: the stages up to `POOL2` (R211). -/
def features {b : Nat} (cfg : Config.Store b) (a : Image) : Map3 Bool 32 4 4 :=
  poolMap (Q := 4) (convMap (O := 8) cfg.w2 (fun n => (cfg.t2 n).toInt)
    (padMap (I := 8) (poolMap (Q := 8) (convMap (O := 16) cfg.w1 (fun n => (cfg.t1 n).toInt) (padMap (I := 16) a)))))

/-- The ten class scores of an image: the stages up to `DENSE2` (R211). -/
def classScores {b : Nat} (cfg : Config.Store b) (a : Image) : Fin 10 → Int :=
  denseMap cfg.wd2 (signMap (denseMap cfg.wd1 (flattenMap (features cfg a))))

/-- `classify` (R210, R211): the class index of an image under a configuration. -/
def classify {b : Nat} (cfg : Config.Store b) (a : Image) : Fin 10 := argmaxIndex (classScores cfg a)

end Sys2Proof.Machine
end

