-- ==== Sys2Proof/Machine/Dispatch.lean ====
section
/-! DEFINITION. The dispatch of the thirteen operations (30_encoding.md R100), one arm per constructor of `Instr`. -/

namespace Sys2Proof.Machine

def exec (i : Instr) (s : State) : Host.Outcome State Fault Refusal :=
  match i with
  | .load => Sys2Proof.Machine.execLoad s
  | .pad1 => Sys2Proof.Machine.execPad1 s
  | .conv1 => Sys2Proof.Machine.execConv1 s
  | .pool1 => Sys2Proof.Machine.execPool1 s
  | .pad2 => Sys2Proof.Machine.execPad2 s
  | .conv2 => Sys2Proof.Machine.execConv2 s
  | .pool2 => Sys2Proof.Machine.execPool2 s
  | .flatten => Sys2Proof.Machine.execFlatten s
  | .dense1 => Sys2Proof.Machine.execDense1 s
  | .sign => Sys2Proof.Machine.execSign s
  | .dense2 => Sys2Proof.Machine.execDense2 s
  | .argmax => Sys2Proof.Machine.execArgmax s
  | .emit => Sys2Proof.Machine.execEmit s

end Sys2Proof.Machine
end

