-- ==== Sys2Proof/Machine/Placement.lean ====
section
/-! DEFINITION. Placing one operation as the machine's next (for the host's check, log 8). The block fetches nothing
(20_memory.md R76): which operation is next is `SEQ` alone, and in a run an operation is next only when the operations
before it have filled its source. DESIGN CHOICE (log 8): what an empty source is filled with. Safe. -/

namespace Sys2Proof.Machine

/-- A bit buffer with every `⊥` replaced by the bit 0; elements that hold a bit keep it. -/
def fill3 {C H W : Nat} (b : BitBuffer C H W) : BitBuffer C H W :=
  map1 (map1 (map1 fun e => some (e.getD false))) b

/-- A vector buffer with every `⊥` replaced by the type's default (the bit 0, the integer 0). -/
def fill1 {α : Type} [Inhabited α] {n : Nat} (b : VecBuffer α n) : VecBuffer α n :=
  map1 (fun e => some (e.getD default)) b

/-- The state with the source of an operation complete, as the operations before it leave it in a run: for `LOAD` a word
on `IN_Q` (a zero word where there is none), for every other operation a source without `⊥`. -/
def State.withSource (s : State) : Instr → State
  | .load => match s.inQ with
    | [] => { s with inQ := [0] }
    | _ :: _ => s
  | .pad1 => { s with img := fill3 s.img }
  | .conv1 => { s with padbuf1 := fill3 s.padbuf1 }
  | .pool1 => { s with fmC1 := fill3 s.fmC1 }
  | .pad2 => { s with fmP1 := fill3 s.fmP1 }
  | .conv2 => { s with padbuf2 := fill3 s.padbuf2 }
  | .pool2 => { s with fmC2 := fill3 s.fmC2 }
  | .flatten => { s with fmP2 := fill3 s.fmP2 }
  | .dense1 => { s with flat := fill1 s.flat }
  | .sign => { s with dv1 := fill1 s.dv1 }
  | .dense2 => { s with act1 := fill1 s.act1 }
  | .argmax => { s with dv2 := fill1 s.dv2 }
  | .emit => { s with result := some (s.result.getD 0) }

/-- The code goes into `SEQ`; where it selects an operation, that operation's source is made complete. -/
def State.place (s : State) (code : BitVec 4) : State :=
  match decodeSeq code with
  | some i => { s.withSource i with seq := code }
  | none => { s with seq := code }

end Sys2Proof.Machine
end

