-- ==== Sys2Proof/Machine/Step.lean ====
section
/-! DEFINITION. One step of the agent `ENGINE` (47_network_inference_pipeline.md R213). -/

namespace Sys2Proof.Machine

/-- One step performs the operation whose code is in `SEQ` and nothing else; a code that selects none is the model fault
`BadSeq`, before anything else (R213, R247, R251). There is no reset inside a run, no clock and no
interrupt: DEDUCED (log 14). Safe. -/
def step (s : State) : Host.Outcome State Fault Refusal :=
  match fetch s with
  | some i => exec i s
  | none => raise (.badSeq s.seq)

/-- The state whose next step runs the operation of a table row's word (log 8). -/
def State.withFetchWord (s : State) (_nbits w : Nat) : State := s.place (seqField w)

end Sys2Proof.Machine
end

