-- ==== Sys2Proof/Machine/ConstantStore.lean ====
section
/-! DEFINITION. Building the constant store from raw tables, once, before there is a machine (10_state.md R41,
60_exceptions.md R242, 70_reset_and_hazards.md R272). -/

namespace Sys2Proof.Machine

/-- The element `[m][n]` of a raw dense table. -/
def rawBit2 (t : List (List Bool)) (m n : Nat) : Bool := (t.getD m []).getD n false

/-- The element `[m][n][r][c]` of a raw kernel table. -/
def rawBit4 (t : List (List (List (List Bool)))) (m n r c : Nat) : Bool := rawBit2 ((t.getD m []).getD n []) r c

/-- The six tables, validated: the store with the raw tables' elements at the same indices, or the refusal
`ConfigurationError` with the name of an offending table (R242). DESIGN CHOICE (log 7): the tables are checked in the
order of R40 and the first ill-formed one is named. Safe. -/
def loadStore (b : Nat) (raw : Config.RawStore) : Except Refusal (Config.Store b) :=
  if b = 0 then .error .thrBitsZero
  else match Config.Table.all.find? (fun t => !raw.tableOk b t) with
    | some t => .error (.configurationError t)
    | none => .ok
      { w1 := fun m n r c => rawBit4 raw.w1 m n r c
        t1 := fun n => BitVec.ofInt b (raw.t1.getD n 0)
        w2 := fun m n r c => rawBit4 raw.w2 m n r c
        t2 := fun n => BitVec.ofInt b (raw.t2.getD n 0)
        wd1 := fun m n => rawBit2 raw.wd1 m n
        wd2 := fun m n => rawBit2 raw.wd2 m n }

end Sys2Proof.Machine
end

