-- ==== Sys2Proof/Machine/HostBoundary.lean ====
section
/-! DEFINITION. The boundary with the agent `HOST` (47_network_inference_pipeline.md R214 to R227): its two actions, an
instance with its fault mark (60_exceptions.md R252), a run with the words that crossed the boundary, and several
instances. `step` is the engine's alone; a run interleaves engine steps and host actions as a list says.
DESIGN CHOICE (log 4). Safe. -/

namespace Sys2Proof.Machine

/-- `HOST_PUSH w` (R216): always enabled; touches `IN_Q` and nothing else. -/
def State.hostPush (s : State) (w : Word) : State := { s with inQ := s.inQ ++ [w] }

/-- `HOST_POP` (R217): enabled only when `OUT_Q` is not empty; the oldest word and the state without it. -/
def State.hostPop (s : State) : Option (Word × State) :=
  match s.outQ with
  | [] => none
  | w :: rest => some (w, { s with outQ := rest })

/-- An engine step is enabled (R213): always for the codes 1 to 12, for `LOAD` when `IN_Q` is not empty. -/
def State.stepEnabled (s : State) : Bool := if s.seq = 0 then !s.inQ.isEmpty else s.seq.toNat ≤ 12

/-- Quiescent (R222): `SEQ` = 0 and `IN_Q` empty. -/
def State.quiescent (s : State) : Bool := s.seq == 0 && s.inQ.isEmpty

/-- Cleanly quiescent (R222): every word pushed so far belongs to a completed classification. -/
def State.cleanlyQuiescent (s : State) : Bool := s.quiescent && s.wcnt == 0

/-- One model instance: its state, and the mark a model fault leaves (R252). -/
structure Instance where
  state : State
  faultMark : Option Fault
  deriving DecidableEq, Repr

/-- An engine step of an instance. A faulting step changes nothing but the fault mark, and a faulted instance is stopped
for good (R252). DESIGN CHOICE (log 10): the mark stands beside State. Safe. -/
def Instance.engineStep (e : Instance) : Instance :=
  match e.faultMark with
  | some _ => e
  | none =>
    match step e.state with
    | .next s => { e with state := s }
    | .fault f => { e with faultMark := some f }
    | .refused _ => e

/-- What can happen next in a run: a step of `ENGINE` or an action of `HOST` (R6). -/
inductive Action where
  | engineStep
  | hostPush (w : Word)
  | hostPop
  deriving DecidableEq, Repr

/-- A run so far: the instance, every word the host has pushed and every word it has popped, oldest first. The two lists
are history for stating claims (R226), not state of the hardware. -/
structure Run where
  inst : Instance
  pushed : List Word
  popped : List Word
  deriving DecidableEq, Repr

/-- The start of every run is the reset state (R271). -/
def Run.reset : Run := { inst := { state := State.reset, faultMark := none }, pushed := [], popped := [] }

/-- One action of a run. A `HOST_POP` with `OUT_Q` empty is not enabled: the host waits (R217). -/
def Run.act (r : Run) : Action → Run
  | .engineStep => { r with inst := r.inst.engineStep }
  | .hostPush w => { r with inst := { r.inst with state := r.inst.state.hostPush w }, pushed := r.pushed ++ [w] }
  | .hostPop =>
    match r.inst.state.hostPop with
    | none => r
    | some (w, s) => { r with inst := { r.inst with state := s }, popped := r.popped ++ [w] }

/-- A list of actions, in order. -/
def Run.acts (r : Run) (actions : List Action) : Run := actions.foldl Run.act r

/-- Every word that has ever appeared on `OUT_Q`, oldest first (R226). -/
def Run.emitted (r : Run) : List Word := r.popped ++ r.inst.state.outQ

/-- The words R226 expects for a sequence of pushed words: for every complete group of eight, the result word of the class
of the image they carry. -/
def resultsFor {b : Nat} (cfg : Config.Store b) : List Word → List Word
  | w0 :: w1 :: w2 :: w3 :: w4 :: w5 :: w6 :: w7 :: rest =>
    resultWord (classCode (classify cfg (unpack #v[w0, w1, w2, w3, w4, w5, w6, w7]))) :: resultsFor cfg rest
  | _ => []

/-- The packing of an image into eight words, the host's side (30_encoding.md R95). -/
def pack (a : Image) : Vector Word 8 := tab1 fun k =>
  BitVec.ofNat 32 (∑ j : Fin 32,
    (a 0 ⟨(32 * k.val + j.val) / 16, by omega⟩ ⟨(32 * k.val + j.val) % 16, by omega⟩).toNat * 2 ^ j.val)

/-- The pseudo-operation `SENDIMG A` (R107). -/
def sendImage (a : Image) : List Action := (pack a).toList.map .hostPush

/-- The engine trace of the pseudo-operation `CLASSIFY`, twenty steps (R107, R220). -/
def classifySteps : List Action := List.replicate 20 .engineStep

/-- The class a host reads out of a result word, `w[3:0]` (R107). -/
def classOfWord (w : Word) : BitVec 4 := w.extractLsb' 0 4

/-- Several instances (R227): the `i`-th performs the action, on its own state and streams.
DESIGN CHOICE (log 9): a list of runs. Safe. -/
def actOn (i : Nat) (a : Action) (instances : List Run) : List Run := instances.modify i fun r => r.act a

/-- `NINST` instances start together at reset (60_exceptions.md R259). -/
def instancesReset : List Run := List.replicate Config.ninst Run.reset

end Sys2Proof.Machine
end

