-- ==== Sys2Proof/Machine/Fairness.lean ====
section
/-! DEFINITION. Infinite runs and the one liveness assumption on them, weak fairness (47_network_inference_pipeline.md R225):
an engine step that stays enabled is eventually taken, and likewise a host action the host intends. There is no time: an
instant is a place in the order of the actions. DESIGN CHOICE (log 15): the form in which a run and the host's intention are
written. Safe. -/

namespace Sys2Proof.Machine

/-- An action is enabled: an engine step as R213 says and in an instance that no fault has stopped (R252), a push always
(R216), a pop when a word waits on `OUT_Q` (R217). -/
def Run.enabled (r : Run) : Action → Bool
  | .engineStep => r.inst.faultMark.isNone && r.inst.state.stepEnabled
  | .hostPush _ => true
  | .hostPop => !r.inst.state.outQ.isEmpty

/-- What happens for ever: the action of every instant, and which host actions the host intends at it. An action that is not
enabled at its instant changes nothing from the states a run reaches (log 2, log 4), so a run in which nothing more happens
is among them. -/
structure Schedule where
  action : Nat → Action
  intends : Nat → Action → Prop

/-- The infinite run of a schedule: the run before each instant. -/
def Schedule.run (σ : Schedule) (start : Run) : Nat → Run
  | 0 => start
  | n + 1 => (σ.run start n).act (σ.action n)

/-- The engine is always after its next step; a host action is wanted when the host intends it (R225). -/
def Schedule.wants (σ : Schedule) (n : Nat) : Action → Prop
  | .engineStep => True
  | .hostPush w => σ.intends n (.hostPush w)
  | .hostPop => σ.intends n .hostPop

/-- Weak fairness (R225): an action that from some instant on stays enabled and wanted is taken at that instant or later. -/
def Schedule.Fair (σ : Schedule) (start : Run) : Prop :=
  ∀ (a : Action) (n : Nat), (∀ m, n ≤ m → (σ.run start m).enabled a = true ∧ σ.wants m a) → ∃ m, n ≤ m ∧ σ.action m = a

/-- The duty assumed of the host (R225): while a word waits on `OUT_Q` it intends to pop. -/
def Schedule.HostReceives (σ : Schedule) (start : Run) : Prop :=
  ∀ n, (σ.run start n).inst.state.outQ ≠ [] → σ.intends n .hostPop

end Sys2Proof.Machine
end

