-- ==== Sys2Proof/Safety.lean ====
section
/-! DEFINITION. What counts as a safe state and a right run, in the terms the statements use: the states in which no
operation reads `⊥` (70_reset_and_hazards.md R281), the ranges of the stored values, the stages' values for the image in
progress, the history of a run (47_network_inference_pipeline.md R226), and what an operation may change. -/

namespace Sys2Proof.Machine

/-- Every element of a bit buffer holds a bit. -/
abbrev Full3 {C H W : Nat} (b : BitBuffer C H W) : Prop := ∀ c y x, (get3 b c y x).isSome

/-- Every element of a vector buffer holds a value. -/
abbrev Full1 {α : Type} {n : Nat} (b : VecBuffer α n) : Prop := ∀ i, (get1 b i).isSome

/-- `b` holds exactly the bits of `f`, with no `⊥`. -/
abbrev Holds3 {C H W : Nat} (b : BitBuffer C H W) (f : Map3 Bool C H W) : Prop := ∀ c y x, get3 b c y x = some (f c y x)

/-- `b` holds exactly the values of `f`, with no `⊥`. -/
abbrev Holds1 {α : Type} {n : Nat} (b : VecBuffer α n) (f : Fin n → α) : Prop := ∀ i, get1 b i = some (f i)

/-- The invariant of R281: `SEQ` is a legal code (R23), `WCNT` is 0 outside `LOAD` (R24), the pixels of the words already
consumed are defined, and the source of the next operation holds no `⊥`. -/
structure State.Ready (s : State) : Prop where
  seqLegal : s.seq.toNat ≤ 12
  wcntIdle : s.seq ≠ 0 → s.wcnt = 0
  loaded : s.seq = 0 → ∀ y x : Fin 16, 16 * y.val + x.val < 32 * s.wcnt.toNat → (get3 s.img 0 y x).isSome
  img : s.seq = encode .pad1 → Full3 s.img
  padbuf1 : s.seq = encode .conv1 → Full3 s.padbuf1
  fmC1 : s.seq = encode .pool1 → Full3 s.fmC1
  fmP1 : s.seq = encode .pad2 → Full3 s.fmP1
  padbuf2 : s.seq = encode .conv2 → Full3 s.padbuf2
  fmC2 : s.seq = encode .pool2 → Full3 s.fmC2
  fmP2 : s.seq = encode .flatten → Full3 s.fmP2
  flat : s.seq = encode .dense1 → Full1 s.flat
  dv1 : s.seq = encode .sign → Full1 s.dv1
  act1 : s.seq = encode .dense2 → Full1 s.act1
  dv2 : s.seq = encode .argmax → Full1 s.dv2
  result : s.seq = encode .emit → s.result.isSome

/-- The ranges of the stored values: R35 and R186 for `DV1`, R37 and R186 for `DV2`, R203 for `RESULT`, R97 for `OUT_Q`. -/
structure State.InRange (s : State) : Prop where
  dv1 : ∀ i v, get1 s.dv1 i = some v → -512 ≤ v ∧ v ≤ 512 ∧ v % 2 = 0
  dv2 : ∀ i v, get1 s.dv2 i = some v → -256 ≤ v ∧ v ≤ 256 ∧ v % 2 = 0
  result : ∀ r, s.result = some r → r.toNat ≤ 9
  outQ : ∀ w ∈ s.outQ, w.toNat ≤ 9

/-- The stages done so far hold their values for the image `a` (R211, R212). -/
structure State.Computes (s : State) (a : Image) : Prop where
  img : Holds3 s.img a
  padbuf1 : 2 ≤ s.seq.toNat → Holds3 s.padbuf1 (padMap (I := 16) a)
  fmC1 : 3 ≤ s.seq.toNat →
    Holds3 s.fmC1 (convMap (O := 16) Config.store.w1 (fun n => (Config.store.t1 n).toInt) (padMap (I := 16) a))
  fmP1 : 4 ≤ s.seq.toNat → Holds3 s.fmP1 (poolMap (Q := 8)
    (convMap (O := 16) Config.store.w1 (fun n => (Config.store.t1 n).toInt) (padMap (I := 16) a)))
  padbuf2 : 5 ≤ s.seq.toNat → Holds3 s.padbuf2 (padMap (I := 8) (poolMap (Q := 8)
    (convMap (O := 16) Config.store.w1 (fun n => (Config.store.t1 n).toInt) (padMap (I := 16) a))))
  fmC2 : 6 ≤ s.seq.toNat → Holds3 s.fmC2 (convMap (O := 8) Config.store.w2 (fun n => (Config.store.t2 n).toInt)
    (padMap (I := 8) (poolMap (Q := 8)
      (convMap (O := 16) Config.store.w1 (fun n => (Config.store.t1 n).toInt) (padMap (I := 16) a)))))
  fmP2 : 7 ≤ s.seq.toNat → Holds3 s.fmP2 (features Config.store a)
  flat : 8 ≤ s.seq.toNat → Holds1 s.flat (flattenMap (features Config.store a))
  dv1 : 9 ≤ s.seq.toNat → Holds1 s.dv1 (denseMap Config.store.wd1 (flattenMap (features Config.store a)))
  act1 : 10 ≤ s.seq.toNat →
    Holds1 s.act1 (signMap (denseMap Config.store.wd1 (flattenMap (features Config.store a))))
  dv2 : 11 ≤ s.seq.toNat → Holds1 s.dv2 (classScores Config.store a)
  result : 12 ≤ s.seq.toNat → s.result = some (classCode (classify Config.store a))

/-- The run's history explains its state: `before` are the words of the images answered, `current` the words of the image
in progress, the rest of what was pushed waits in `IN_Q`, and what was ever emitted is what R226 expects of `before`. -/
structure Run.Tracks (r : Run) (before current : List Word) : Prop where
  noFault : r.inst.faultMark = none
  seqLegal : r.inst.state.seq.toNat ≤ 12
  pushed : r.pushed = before ++ current ++ r.inst.state.inQ
  framed : before.length % 8 = 0
  emitted : r.emitted = resultsFor Config.store before
  loading : r.inst.state.seq = 0 → current.length = r.inst.state.wcnt.toNat ∧
    ∀ y x : Fin 16, 16 * y.val + x.val < 32 * r.inst.state.wcnt.toNat →
      get3 r.inst.state.img 0 y x =
        some ((current.getD ((16 * y.val + x.val) / 32) 0).getLsbD ((16 * y.val + x.val) % 32))
  running : r.inst.state.seq ≠ 0 → r.inst.state.wcnt = 0 ∧
    ∃ words : Vector Word 8, current = words.toList ∧ r.inst.state.Computes (unpack words)

/-- A run whose history explains its state. -/
def Run.Consistent (r : Run) : Prop := ∃ before current, r.Tracks before current

/-- How many engine steps a state can still take without a further push: thirteen for each waiting word is enough, and the
rest of the classification in progress. -/
def State.remainingWork (s : State) : Nat :=
  13 * s.inQ.length + (if s.seq = 0 then 0 else 13 - s.seq.toNat)

/-- Everything but `SEQ` and the place `d` is the same in two states: what an operation with destination `d` other than
`LOAD` leaves unchanged (R25, R38, R61). -/
structure State.SameBut (d : Buffer) (s t : State) : Prop where
  wcnt : t.wcnt = s.wcnt
  result : d ≠ .result → t.result = s.result
  img : d ≠ .img → t.img = s.img
  padbuf1 : d ≠ .padbuf1 → t.padbuf1 = s.padbuf1
  fmC1 : d ≠ .fmC1 → t.fmC1 = s.fmC1
  fmP1 : d ≠ .fmP1 → t.fmP1 = s.fmP1
  padbuf2 : d ≠ .padbuf2 → t.padbuf2 = s.padbuf2
  fmC2 : d ≠ .fmC2 → t.fmC2 = s.fmC2
  fmP2 : d ≠ .fmP2 → t.fmP2 = s.fmP2
  flat : d ≠ .flat → t.flat = s.flat
  dv1 : d ≠ .dv1 → t.dv1 = s.dv1
  act1 : d ≠ .act1 → t.act1 = s.act1
  dv2 : d ≠ .dv2 → t.dv2 = s.dv2
  inQ : d ≠ .inQ → t.inQ = s.inQ
  outQ : d ≠ .outQ → t.outQ = s.outQ

/-- Two states hold the same at a place. -/
def State.AgreeAt (s t : State) : Buffer → Prop
  | .img => s.img = t.img
  | .padbuf1 => s.padbuf1 = t.padbuf1
  | .fmC1 => s.fmC1 = t.fmC1
  | .fmP1 => s.fmP1 = t.fmP1
  | .padbuf2 => s.padbuf2 = t.padbuf2
  | .fmC2 => s.fmC2 = t.fmC2
  | .fmP2 => s.fmP2 = t.fmP2
  | .flat => s.flat = t.flat
  | .dv1 => s.dv1 = t.dv1
  | .act1 => s.act1 = t.act1
  | .dv2 => s.dv2 = t.dv2
  | .result => s.result = t.result
  | .inQ => s.inQ = t.inQ
  | .outQ => s.outQ = t.outQ

/-- The signed unit a bit stands for: +1 for 1 and −1 for 0 (00_scope.md R12). -/
def signedUnit (b : Bool) : Int := if b then 1 else -1

end Sys2Proof.Machine
end

