-- ==== Sys2Proof/Certificates/Slice0/Obligations.lean ====
section
/-! DEFINITION. The statements about the machine for the provers, one per obligation of OBLIGATIONS.json, each with the
rules of spec/ it formalises. -/

open Sys2Proof Sys2Proof.Machine

/-! ## Decoding and the step -/

/-- R100: the sixteen codes of `SEQ4`, written out bit by bit. A sanity statement. -/
def Obligations.CodesDecodeAsTheMapSays : Prop :=
  decodeSeq 0b0000#4 = some .load ∧ decodeSeq 0b0001#4 = some .pad1 ∧ decodeSeq 0b0010#4 = some .conv1 ∧
  decodeSeq 0b0011#4 = some .pool1 ∧ decodeSeq 0b0100#4 = some .pad2 ∧ decodeSeq 0b0101#4 = some .conv2 ∧
  decodeSeq 0b0110#4 = some .pool2 ∧ decodeSeq 0b0111#4 = some .flatten ∧ decodeSeq 0b1000#4 = some .dense1 ∧
  decodeSeq 0b1001#4 = some .sign ∧ decodeSeq 0b1010#4 = some .dense2 ∧ decodeSeq 0b1011#4 = some .argmax ∧
  decodeSeq 0b1100#4 = some .emit ∧ decodeSeq 0b1101#4 = none ∧ decodeSeq 0b1110#4 = none ∧ decodeSeq 0b1111#4 = none

/-- R100, R101: the code of an operation selects that operation, and an operation is selected by its code alone. -/
def Obligations.EncodeDecodeAgree : Prop :=
  (∀ i : Instr, decodeSeq (encode i) = some i) ∧ ∀ (code : BitVec 4) (i : Instr), decodeSeq code = some i → encode i = code

/-- R213: a step performs the operation whose code is in `SEQ` and nothing else; nothing is added around `exec`. -/
def Obligations.StepPerformsSequencedOperation : Prop :=
  ∀ (s : State) (i : Instr), decodeSeq s.seq = some i → step s = exec i s

/-- R102, R247, R23: the codes 0 to 12 select an operation and 13 to 15 select nothing; a state that holds one of these takes
`BadSeq` whatever its buffers hold, and no step leads from a legal code to one. -/
def Obligations.IllegalCodesFaultAndAreNotReached : Prop :=
  (∀ code : BitVec 4, code.toNat ≤ 12 ↔ ∃ i, decodeSeq code = some i) ∧
  (∀ s : State, 12 < s.seq.toNat → step s = .fault (.badSeq s.seq)) ∧
  ∀ s t : State, s.seq.toNat ≤ 12 → step s = .next t → t.seq.toNat ≤ 12

/-- R23: the successor of a code. The case `SEQ` = 0 with no word waiting is the model's hold (log 2). -/
def Obligations.SequencerSuccessor : Prop :=
  ∀ s t : State, step s = .next t →
    t.seq = if s.seq = 0 then (if s.inQ ≠ [] ∧ s.wcnt = 7 then 1 else 0) else if s.seq = 12 then 0 else s.seq + 1

/-! ## Reset -/

/-- R45: the state after reset, field by field, and that it starts every run. -/
def Obligations.ResetLeavesTheSpecsState : Prop :=
  State.reset.seq = 0 ∧ decodeSeq State.reset.seq = some .load ∧ State.reset.wcnt = 0 ∧ State.reset.result = none ∧
  (∀ c y x, get3 State.reset.img c y x = none) ∧ (∀ c y x, get3 State.reset.padbuf1 c y x = none) ∧
  (∀ c y x, get3 State.reset.fmC1 c y x = none) ∧ (∀ c y x, get3 State.reset.fmP1 c y x = none) ∧
  (∀ c y x, get3 State.reset.padbuf2 c y x = none) ∧ (∀ c y x, get3 State.reset.fmC2 c y x = none) ∧
  (∀ c y x, get3 State.reset.fmP2 c y x = none) ∧ (∀ i, get1 State.reset.flat i = none) ∧
  (∀ i, get1 State.reset.dv1 i = none) ∧ (∀ i, get1 State.reset.act1 i = none) ∧ (∀ i, get1 State.reset.dv2 i = none) ∧
  State.reset.inQ = [] ∧ State.reset.outQ = [] ∧ Sys2Proof.core.reset = State.reset ∧
  Run.reset.inst = { state := State.reset, faultMark := none }

/-- The reset state meets the invariant of R281. -/
def Obligations.ResetIsReady : Prop := State.reset.Ready

/-- The reset state meets the ranges of the stored values. -/
def Obligations.ResetIsInRange : Prop := State.reset.InRange

/-- The empty run meets the history invariant. -/
def Obligations.ResetRunIsConsistent : Prop := Run.reset.Consistent

/-! ## The operations -/

/-- R215, a word waiting: `LOAD` pops it; with `WCNT` = 0 every other buffer and `RESULT` become `⊥`, else they are
unchanged; bit `j` goes to scan position `32·WCNT + j`, the other pixels are `⊥` or unchanged in the same way; the eighth
word wraps the counter and makes `PAD1` the next operation. -/
def Obligations.LoadConsumesOneWord : Prop :=
  ∀ (s : State) (w : Word) (rest : List Word), s.inQ = w :: rest → ∃ t, exec .load s = .next t ∧
    t.inQ = rest ∧ t.outQ = s.outQ ∧
    (∀ (j : Fin 32) (y x : Fin 16), 16 * y.val + x.val = 32 * s.wcnt.toNat + j.val →
      get3 t.img 0 y x = some (w.getLsbD j.val)) ∧
    (∀ y x : Fin 16, (16 * y.val + x.val) / 32 ≠ s.wcnt.toNat →
      get3 t.img 0 y x = if s.wcnt = 0 then none else get3 s.img 0 y x) ∧
    (s.wcnt = 0 → t.result = none ∧ (∀ c y x, get3 t.padbuf1 c y x = none) ∧ (∀ c y x, get3 t.fmC1 c y x = none) ∧
      (∀ c y x, get3 t.fmP1 c y x = none) ∧ (∀ c y x, get3 t.padbuf2 c y x = none) ∧
      (∀ c y x, get3 t.fmC2 c y x = none) ∧ (∀ c y x, get3 t.fmP2 c y x = none) ∧ (∀ i, get1 t.flat i = none) ∧
      (∀ i, get1 t.dv1 i = none) ∧ (∀ i, get1 t.act1 i = none) ∧ (∀ i, get1 t.dv2 i = none)) ∧
    (s.wcnt ≠ 0 → t.result = s.result ∧ t.padbuf1 = s.padbuf1 ∧ t.fmC1 = s.fmC1 ∧ t.fmP1 = s.fmP1 ∧
      t.padbuf2 = s.padbuf2 ∧ t.fmC2 = s.fmC2 ∧ t.fmP2 = s.fmP2 ∧ t.flat = s.flat ∧ t.dv1 = s.dv1 ∧ t.act1 = s.act1 ∧
      t.dv2 = s.dv2) ∧
    t.wcnt.toNat = (s.wcnt.toNat + 1) % 8 ∧ t.seq = if s.wcnt = 7 then 1 else s.seq

/-- R215, no word waiting: the engine holds. That holding is a step to the same state is the model's choice (log 2). -/
def Obligations.LoadHoldsWhenInputEmpty : Prop :=
  ∀ s : State, s.inQ = [] → exec .load s = .next s

/-- R121: `PAD1` centres the image in a border of zero bits, or faults when a pixel is `⊥`. -/
def Obligations.Pad1CentresTheImage : Prop :=
  encode .pad1 = 1 ∧ ∀ s : State,
    (Full3 s.img → ∃ t, exec .pad1 s = .next t ∧ t.seq = 2 ∧ s.SameBut .padbuf1 t ∧
      (∀ (Y X : Fin 18) (y x : Fin 16), Y.val = y.val + 1 → X.val = x.val + 1 →
        get3 t.padbuf1 0 Y X = get3 s.img 0 y x) ∧
      ∀ Y X : Fin 18, Y.val = 0 ∨ Y.val = 17 ∨ X.val = 0 ∨ X.val = 17 → get3 t.padbuf1 0 Y X = some false) ∧
    (¬ Full3 s.img → ∃ c y x, get3 s.img c y x = none ∧
      exec .pad1 s = .fault (.unwrittenRead .img [c.val, y.val, x.val]))

/-- R122: `PAD2` centres each channel of the pooled map in a border of zero bits, or faults when an element is `⊥`. -/
def Obligations.Pad2CentresThePooledMap : Prop :=
  encode .pad2 = 4 ∧ ∀ s : State,
    (Full3 s.fmP1 → ∃ t, exec .pad2 s = .next t ∧ t.seq = 5 ∧ s.SameBut .padbuf2 t ∧
      (∀ (m : Fin 16) (Y X : Fin 10) (y x : Fin 8), Y.val = y.val + 1 → X.val = x.val + 1 →
        get3 t.padbuf2 m Y X = get3 s.fmP1 m y x) ∧
      ∀ (m : Fin 16) (Y X : Fin 10), Y.val = 0 ∨ Y.val = 9 ∨ X.val = 0 ∨ X.val = 9 →
        get3 t.padbuf2 m Y X = some false) ∧
    (¬ Full3 s.fmP1 → ∃ c y x, get3 s.fmP1 c y x = none ∧
      exec .pad2 s = .fault (.unwrittenRead .fmP1 [c.val, y.val, x.val]))

/-- R141: each bit of `CONV1` is 1 exactly when `2·agree − 9` strictly exceeds the channel's threshold, where `agree`
counts the equal bits of the window and the kernel; it faults when an element of `PADBUF1` is `⊥`. -/
def Obligations.Conv1ThresholdsVotes : Prop :=
  encode .conv1 = 2 ∧ ∀ s : State,
    (∀ a : Map3 Bool 1 18 18, Holds3 s.padbuf1 a → ∃ t, exec .conv1 s = .next t ∧ t.seq = 3 ∧ s.SameBut .fmC1 t ∧
      ∀ (n : Fin 16) (y x : Fin 16), get3 t.fmC1 n y x = some (decide ((Config.store.t1 n).toInt <
        2 * (∑ r : Fin 3, ∑ c : Fin 3,
          if a 0 ⟨y.val + r.val, by omega⟩ ⟨x.val + c.val, by omega⟩ = Config.store.w1 0 n r c then (1 : Int) else 0) - 9))) ∧
    (¬ Full3 s.padbuf1 → ∃ c y x, get3 s.padbuf1 c y x = none ∧
      exec .conv1 s = .fault (.unwrittenRead .padbuf1 [c.val, y.val, x.val]))

/-- R142: each bit of `CONV2` is 1 exactly when `2·agree − 144` strictly exceeds the channel's threshold, where `agree`
counts the equal bits over all sixteen input channels; it faults when an element of `PADBUF2` is `⊥`. -/
def Obligations.Conv2ThresholdsVotes : Prop :=
  encode .conv2 = 5 ∧ ∀ s : State,
    (∀ a : Map3 Bool 16 10 10, Holds3 s.padbuf2 a → ∃ t, exec .conv2 s = .next t ∧ t.seq = 6 ∧ s.SameBut .fmC2 t ∧
      ∀ (n : Fin 32) (y x : Fin 8), get3 t.fmC2 n y x = some (decide ((Config.store.t2 n).toInt <
        2 * (∑ m : Fin 16, ∑ r : Fin 3, ∑ c : Fin 3,
          if a m ⟨y.val + r.val, by omega⟩ ⟨x.val + c.val, by omega⟩ = Config.store.w2 m n r c then (1 : Int) else 0) - 144))) ∧
    (¬ Full3 s.padbuf2 → ∃ c y x, get3 s.padbuf2 c y x = none ∧
      exec .conv2 s = .fault (.unwrittenRead .padbuf2 [c.val, y.val, x.val]))

/-- R161: `POOL1` is the OR of each non-overlapping 2×2 window of `FM_C1`, or faults when an element is `⊥`. -/
def Obligations.Pool1OrsWindows : Prop :=
  encode .pool1 = 3 ∧ ∀ s : State,
    (∀ a : Map3 Bool 16 16 16, Holds3 s.fmC1 a → ∃ t, exec .pool1 s = .next t ∧ t.seq = 4 ∧ s.SameBut .fmP1 t ∧
      ∀ (m : Fin 16) (y x : Fin 8), ∃ v, get3 t.fmP1 m y x = some v ∧
        (v = true ↔ ∃ Y X : Fin 16, Y.val / 2 = y.val ∧ X.val / 2 = x.val ∧ a m Y X = true)) ∧
    (¬ Full3 s.fmC1 → ∃ c y x, get3 s.fmC1 c y x = none ∧
      exec .pool1 s = .fault (.unwrittenRead .fmC1 [c.val, y.val, x.val]))

/-- R162: `POOL2` is the OR of each non-overlapping 2×2 window of `FM_C2`, or faults when an element is `⊥`. -/
def Obligations.Pool2OrsWindows : Prop :=
  encode .pool2 = 6 ∧ ∀ s : State,
    (∀ a : Map3 Bool 32 8 8, Holds3 s.fmC2 a → ∃ t, exec .pool2 s = .next t ∧ t.seq = 7 ∧ s.SameBut .fmP2 t ∧
      ∀ (m : Fin 32) (y x : Fin 4), ∃ v, get3 t.fmP2 m y x = some v ∧
        (v = true ↔ ∃ Y X : Fin 8, Y.val / 2 = y.val ∧ X.val / 2 = x.val ∧ a m Y X = true)) ∧
    (¬ Full3 s.fmC2 → ∃ c y x, get3 s.fmC2 c y x = none ∧
      exec .pool2 s = .fault (.unwrittenRead .fmC2 [c.val, y.val, x.val]))

/-- R171: `FLATTEN` moves element `(c, y, x)` to position `c + (x + 4·y)·32`, or faults when an element is `⊥`. -/
def Obligations.FlattenReindexes : Prop :=
  encode .flatten = 7 ∧ ∀ s : State,
    (Full3 s.fmP2 → ∃ t, exec .flatten s = .next t ∧ t.seq = 8 ∧ s.SameBut .flat t ∧ Full1 t.flat ∧
      ∀ (c : Fin 32) (y x : Fin 4) (i : Fin 512), i.val = c.val + (x.val + 4 * y.val) * 32 →
        get1 t.flat i = get3 s.fmP2 c y x) ∧
    (¬ Full3 s.fmP2 → ∃ c y x, get3 s.fmP2 c y x = none ∧
      exec .flatten s = .fault (.unwrittenRead .fmP2 [c.val, y.val, x.val]))

/-- R181: `DENSE1` gives `2·accum − 512` for each output unit, or faults when an element of `FLAT` is `⊥`. -/
def Obligations.Dense1CountsAgreement : Prop :=
  encode .dense1 = 8 ∧ ∀ s : State,
    (∀ v : Fin 512 → Bool, Holds1 s.flat v → ∃ t, exec .dense1 s = .next t ∧ t.seq = 9 ∧ s.SameBut .dv1 t ∧
      ∀ n : Fin 256, get1 t.dv1 n =
        some (2 * (∑ m : Fin 512, if v m = Config.store.wd1 m n then (1 : Int) else 0) - 512)) ∧
    (¬ Full1 s.flat → ∃ i, get1 s.flat i = none ∧ exec .dense1 s = .fault (.unwrittenRead .flat [i.val]))

/-- R182: `DENSE2` gives `2·accum − 256` for each class, or faults when an element of `ACT1` is `⊥`. -/
def Obligations.Dense2CountsAgreement : Prop :=
  encode .dense2 = 10 ∧ ∀ s : State,
    (∀ v : Fin 256 → Bool, Holds1 s.act1 v → ∃ t, exec .dense2 s = .next t ∧ t.seq = 11 ∧ s.SameBut .dv2 t ∧
      ∀ n : Fin 10, get1 t.dv2 n =
        some (2 * (∑ m : Fin 256, if v m = Config.store.wd2 m n then (1 : Int) else 0) - 256)) ∧
    (¬ Full1 s.act1 → ∃ i, get1 s.act1 i = none ∧ exec .dense2 s = .fault (.unwrittenRead .act1 [i.val]))

/-- R195: `SIGN` gives 1 exactly for the strictly positive elements, or faults when an element of `DV1` is `⊥`. -/
def Obligations.SignIsStrictlyPositive : Prop :=
  encode .sign = 9 ∧ ∀ s : State,
    (∀ v : Fin 256 → Int, Holds1 s.dv1 v → ∃ t, exec .sign s = .next t ∧ t.seq = 10 ∧ s.SameBut .act1 t ∧
      ∀ m : Fin 256, get1 t.act1 m = some (decide (0 < v m))) ∧
    (¬ Full1 s.dv1 → ∃ i, get1 s.dv1 i = none ∧ exec .sign s = .fault (.unwrittenRead .dv1 [i.val]))

/-- R200, R203: `ARGMAX` leaves in `RESULT` the least index, in 0 to 9, at which the maximum of the ten scores is attained,
or faults when a score is `⊥`. -/
def Obligations.ArgmaxSelectsLowestMaximum : Prop :=
  encode .argmax = 11 ∧ ∀ s : State,
    (∀ v : Fin 10 → Int, Holds1 s.dv2 v → ∃ t, exec .argmax s = .next t ∧ t.seq = 12 ∧ s.SameBut .result t ∧
      ∃ (r : BitVec 4) (i : Fin 10), t.result = some r ∧ r.toNat = i.val ∧ (∀ j, v j ≤ v i) ∧ ∀ j, j < i → v j < v i) ∧
    (¬ Full1 s.dv2 → ∃ i, get1 s.dv2 i = none ∧ exec .argmax s = .fault (.unwrittenRead .dv2 [i.val]))

/-- R219: `EMIT` appends one word, bits 3:0 the class index and bits 31:4 zero, and makes `LOAD` the next operation; it
faults when `RESULT` is `⊥`. -/
def Obligations.EmitSendsTheResultWord : Prop :=
  encode .emit = 12 ∧ ∀ s : State,
    (∀ r : BitVec 4, s.result = some r → ∃ t w, exec .emit s = .next t ∧ t.seq = 0 ∧ s.SameBut .outQ t ∧
      t.outQ = s.outQ ++ [w] ∧ w.extractLsb' 0 4 = r ∧ w.extractLsb' 4 28 = 0) ∧
    (s.result = none → exec .emit s = .fault (.unwrittenRead .result []))

/-! ## Whole-machine rules over the operations -/

/-- R25, R61: an operation other than `LOAD` changes its one destination and `SEQ`, and nothing else. -/
def Obligations.OperationsChangeOnlyTheirDestination : Prop :=
  ∀ (i : Instr) (s t : State), i ≠ .load → exec i s = .next t → s.SameBut i.dest t

/-- R61: what a stage writes depends on its one source alone: two states that agree there, however they differ elsewhere,
both step, to states that agree at its destination. -/
def Obligations.StagesReadOnlyTheirSource : Prop :=
  ∀ (i : Instr) (s s' t : State), i ≠ .load → i ≠ .emit → s.AgreeAt s' i.source → exec i s = .next t →
    ∃ t', exec i s' = .next t' ∧ t.AgreeAt t' i.dest ∧ t'.seq = t.seq

/-- R246: an operation faults only by `UnwrittenRead` in its own source, `LOAD` never faults, and none is refused. -/
def Obligations.OnlyUnwrittenSourcesFault : Prop :=
  ∀ (i : Instr) (s : State),
    (∀ f, exec i s = .fault f → i ≠ .load ∧ ∃ index, f = .unwrittenRead i.source index) ∧
    ∀ r, exec i s ≠ .refused r

/-- R39, R221: the step that consumes the first word of an image leaves the same state whatever the buffers and `RESULT`
held before, so nothing computed for one image can be read while the next is classified. -/
def Obligations.FirstLoadErasesThePast : Prop :=
  ∀ s s' : State, s.seq = 0 → s'.seq = 0 → s.wcnt = 0 → s'.wcnt = 0 → s.inQ = s'.inQ → s.inQ ≠ [] → s.outQ = s'.outQ →
    ∃ t, step s = .next t ∧ step s' = .next t

/-- R281, R240: from every state that meets the invariant a step neither faults nor is refused, and the invariant holds
after it: no operation ever reads `⊥`. At `SEQ` = 0 with no word waiting, where R213 has no enabled step, the next state is
the model's hold (log 2). -/
def Obligations.ReadyStatesStepToReadyStates : Prop :=
  ∀ s : State, s.Ready → ∃ t, step s = .next t ∧ t.Ready

/-- R35, R37, R97, R186, R203: every step keeps `DV1` even in −512 to 512, `DV2` even in −256 to 256, `RESULT` in 0 to 9 and
the words of `OUT_Q` in 0 to 9. -/
def Obligations.StepsKeepRanges : Prop :=
  ∀ s t : State, s.InRange → step s = .next t → t.InRange

/-- R222: in a state that meets the invariant, the step changes nothing exactly when the engine is quiescent (the hold of
log 2), which is exactly when no step is enabled (R213). -/
def Obligations.HoldsExactlyWhenQuiescent : Prop :=
  ∀ s : State, s.Ready → (step s = .next s ↔ s.quiescent = true) ∧ (s.quiescent = true ↔ s.stepEnabled = false)

/-! ## Integer laws -/

/-- R147: the ranges, the parity and the sufficient widths of `agree` and `vote`. -/
def Obligations.VoteRangesAndParity : Prop :=
  (∀ (M O : Nat) (input : Map3 Bool M (O + 2) (O + 2)) (kernel : Fin M → Fin 3 → Fin 3 → Bool) (y x : Fin O),
    agree input kernel y x ≤ 9 * M ∧ -(9 * M : Int) ≤ vote input kernel y x ∧ vote input kernel y x ≤ 9 * M ∧
      vote input kernel y x % 2 = (9 * M : Int) % 2) ∧
  (∀ (input : Map3 Bool 1 18 18) (kernel : Fin 1 → Fin 3 → Fin 3 → Bool) (y x : Fin 16),
    agree (O := 16) input kernel y x < 2 ^ 4 ∧ 2 * agree (O := 16) input kernel y x < 2 ^ 5 ∧
      -(2 ^ 4 : Int) ≤ vote (O := 16) input kernel y x ∧ vote (O := 16) input kernel y x < 2 ^ 4 ∧
      vote (O := 16) input kernel y x % 2 = 1) ∧
  ∀ (input : Map3 Bool 16 10 10) (kernel : Fin 16 → Fin 3 → Fin 3 → Bool) (y x : Fin 8),
    agree (O := 8) input kernel y x < 2 ^ 8 ∧ 2 * agree (O := 8) input kernel y x < 2 ^ 9 ∧
      -(2 ^ 8 : Int) ≤ vote (O := 8) input kernel y x ∧ vote (O := 8) input kernel y x < 2 ^ 8 ∧
      vote (O := 8) input kernel y x % 2 = 0

/-- R143: the vote is the equal pairs minus the different pairs, which is twice the equal pairs minus all, and the dot product
of window and kernel read as vectors of ±1 units. -/
def Obligations.VoteIsSignedDotProduct : Prop :=
  ∀ (M O : Nat) (input : Map3 Bool M (O + 2) (O + 2)) (kernel : Fin M → Fin 3 → Fin 3 → Bool) (y x : Fin O),
    vote input kernel y x = (agree input kernel y x : Int) - (9 * M - agree input kernel y x) ∧
    vote input kernel y x = 2 * agree input kernel y x - 9 * M ∧
    vote input kernel y x = ∑ m : Fin M, ∑ r : Fin 3, ∑ c : Fin 3,
      signedUnit (input m ⟨y.val + r.val, by omega⟩ ⟨x.val + c.val, by omega⟩) * signedUnit (kernel m r c)

/-- R148: complementing window and kernel changes nothing; complementing one of them turns `agree` into `F·F·M − agree` and
negates the vote. -/
def Obligations.ConvolutionComplementSymmetry : Prop :=
  ∀ (M O : Nat) (input : Map3 Bool M (O + 2) (O + 2)) (kernel : Fin M → Fin 3 → Fin 3 → Bool) (y x : Fin O),
    (agree (fun m Y X => !input m Y X) (fun m r c => !kernel m r c) y x = agree input kernel y x ∧
      vote (fun m Y X => !input m Y X) (fun m r c => !kernel m r c) y x = vote input kernel y x) ∧
    (agree (fun m Y X => !input m Y X) kernel y x + agree input kernel y x = 9 * M ∧
      vote (fun m Y X => !input m Y X) kernel y x = -vote input kernel y x) ∧
    (agree input (fun m r c => !kernel m r c) y x + agree input kernel y x = 9 * M ∧
      vote input (fun m r c => !kernel m r c) y x = -vote input kernel y x)

/-- R141, R142, corner cases: a threshold at or above the largest vote forces a channel to 0, one below the least vote
forces it to 1, and at the least vote itself exactly the complement of the kernel gives 0. -/
def Obligations.ExtremeThresholdsForceChannels : Prop :=
  ∀ (M N O : Nat) (weights : Fin M → Fin N → Fin 3 → Fin 3 → Bool) (threshold : Fin N → Int)
    (input : Map3 Bool M (O + 2) (O + 2)) (n : Fin N) (y x : Fin O),
    (9 * (M : Int) ≤ threshold n → convMap weights threshold input n y x = false) ∧
    (threshold n < -(9 * (M : Int)) → convMap weights threshold input n y x = true) ∧
    (threshold n = -(9 * (M : Int)) → (convMap weights threshold input n y x = false ↔
      ∀ (m : Fin M) (r c : Fin 3),
        input m ⟨y.val + r.val, by omega⟩ ⟨x.val + c.val, by omega⟩ = !weights m n r c))

/-- R141, R142, corner cases: a threshold of the parity of the votes and the next threshold select the same bits; a vote one
above a threshold separates that threshold from the next. -/
def Obligations.NeighbouringThresholds : Prop :=
  ∀ (M N O : Nat) (weights : Fin M → Fin N → Fin 3 → Fin 3 → Bool) (threshold next : Fin N → Int)
    (input : Map3 Bool M (O + 2) (O + 2)) (n : Fin N) (y x : Fin O), next n = threshold n + 1 →
    (threshold n % 2 = (9 * M : Int) % 2 →
      convMap weights threshold input n y x = convMap weights next input n y x) ∧
    (vote input (fun m => weights m n) y x = threshold n + 1 →
      convMap weights threshold input n y x = true ∧ convMap weights next input n y x = false)

/-- R146: border bits are ordinary bits: the votes of an all-zero image under an all-zero kernel, and of an all-ones image
under an all-ones kernel at the inner positions, the edges and the corners. -/
def Obligations.BorderBitsCountAsMinusOne : Prop :=
  (∀ y x : Fin 16, vote (O := 16) (padMap (I := 16) fun (_ : Fin 1) _ _ => false) (fun _ _ _ => false) y x = 9) ∧
  ∀ y x : Fin 16, vote (O := 16) (padMap (I := 16) fun (_ : Fin 1) _ _ => true) (fun _ _ _ => true) y x =
    if (y.val = 0 ∨ y.val = 15) ∧ (x.val = 0 ∨ x.val = 15) then -1
    else if (y.val = 0 ∨ y.val = 15) ∨ (x.val = 0 ∨ x.val = 15) then 3 else 9

/-- R186, R183: the ranges, the parity and the sufficient widths of the dense layers' counts and values, and the value as
the dot product of ±1 units. -/
def Obligations.DenseRangesAndParity : Prop :=
  ∀ (M N : Nat) (weights : Fin M → Fin N → Bool) (input : Fin M → Bool) (n : Fin N),
    accum input (fun m => weights m n) ≤ M ∧ -(M : Int) ≤ denseMap weights input n ∧ denseMap weights input n ≤ M ∧
    denseMap weights input n % 2 = (M : Int) % 2 ∧
    denseMap weights input n = ∑ m : Fin M, signedUnit (input m) * signedUnit (weights m n) ∧
    (M = 512 → accum input (fun m => weights m n) < 2 ^ 10 ∧ 2 * accum input (fun m => weights m n) < 2 ^ 11 ∧
      -(2 ^ 10 : Int) ≤ denseMap weights input n ∧ denseMap weights input n < 2 ^ 10) ∧
    (M = 256 → accum input (fun m => weights m n) < 2 ^ 9 ∧ 2 * accum input (fun m => weights m n) < 2 ^ 10 ∧
      -(2 ^ 9 : Int) ≤ denseMap weights input n ∧ denseMap weights input n < 2 ^ 9)

/-- R181, R182, corner cases: an output is the largest value exactly when the source equals the weight column, the least
exactly when it is the column's complement, 0 exactly when half the positions agree; equal columns give equal outputs. -/
def Obligations.DenseExtremeOutputs : Prop :=
  ∀ (M N : Nat) (weights : Fin M → Fin N → Bool) (input : Fin M → Bool) (n : Fin N),
    (denseMap weights input n = M ↔ ∀ m, input m = weights m n) ∧
    (denseMap weights input n = -M ↔ ∀ m, input m = !weights m n) ∧
    (denseMap weights input n = 0 ↔ 2 * accum input (fun m => weights m n) = M) ∧
    ∀ k : Fin N, (∀ m, weights m k = weights m n) → denseMap weights input k = denseMap weights input n

/-- R188: complementing the source negates every output, complementing a column negates that output, complementing both
leaves it, and flipping one source bit changes every output by exactly +2 or −2. -/
def Obligations.DenseComplementSymmetry : Prop :=
  ∀ (M N : Nat) (weights : Fin M → Fin N → Bool) (input : Fin M → Bool) (n : Fin N),
    denseMap weights (fun m => !input m) n = -denseMap weights input n ∧
    denseMap (fun m k => if k = n then !weights m k else weights m k) input n = -denseMap weights input n ∧
    denseMap (fun m k => if k = n then !weights m k else weights m k) (fun m => !input m) n = denseMap weights input n ∧
    ∀ i : Fin M, denseMap weights (fun m => if m = i then !input m else input m) n = denseMap weights input n + 2 ∨
      denseMap weights (fun m => if m = i then !input m else input m) n = denseMap weights input n - 2

/-- R163: pooling is monotone: raising source bits never lowers a destination bit. -/
def Obligations.PoolingIsMonotone : Prop :=
  ∀ (M Q : Nat) (a a' : Map3 Bool M (2 * Q) (2 * Q)), (∀ m Y X, a m Y X = true → a' m Y X = true) →
    ∀ m y x, poolMap a m y x = true → poolMap a' m y x = true

/-- R204: the selected index does not change under a strictly increasing map of the ten scores, an added constant among
them. -/
def Obligations.ArgmaxKeepsUnderIncreasingMaps : Prop :=
  ∀ (v : Fin 10 → Int) (g : Int → Int), (∀ p q, p < q → g p < g q) → argmaxIndex (fun i => g (v i)) = argmaxIndex v

/-! ## Encodings and data movements -/

/-- R170, R172: the index map of `FLATTEN` is a bijection, and flattening and unflattening are inverse to each other. -/
def Obligations.FlattenIsABijection : Prop :=
  (∀ (c c' : Fin 32) (y y' x x' : Fin 4), flatIndex c y x = flatIndex c' y' x' → c = c' ∧ y = y' ∧ x = x') ∧
  (∀ i : Fin 512, ∃ (c : Fin 32) (y x : Fin 4), flatIndex c y x = i ∧ c.val = i.val % 32 ∧ x.val = i.val / 32 % 4 ∧
    y.val = i.val / 128) ∧
  (∀ a : Map3 Bool 32 4 4, unflattenMap (flattenMap a) = a) ∧ ∀ v : Fin 512 → Bool, flattenMap (unflattenMap v) = v

/-- R121, R122, R171: padding keeps the number of 1 bits of every channel, and flattening keeps the number of 1 bits. -/
def Obligations.DataMovesKeepTheOnes : Prop :=
  (∀ (M I : Nat) (a : Map3 Bool M I I) (m : Fin M),
    ∑ Y : Fin (I + 2), ∑ X : Fin (I + 2), (padMap a m Y X).toNat = ∑ y : Fin I, ∑ x : Fin I, (a m y x).toNat) ∧
  ∀ a : Map3 Bool 32 4 4,
    ∑ i : Fin 512, (flattenMap a i).toNat = ∑ c : Fin 32, ∑ y : Fin 4, ∑ x : Fin 4, (a c y x).toNat

/-- R95: packing then unpacking is the identity on images, and unpacking then packing is the identity on eight words. -/
def Obligations.PackAndUnpackAreInverse : Prop :=
  (∀ a : Image, unpack (pack a) = a) ∧ ∀ words : Vector Word 8, pack (unpack words) = words

/-- R94: word `k` carries row `2k` in its bits 15:0 and row `2k + 1` in its bits 31:16, column `x` at bit `x`. -/
def Obligations.WordsCarryTwoRows : Prop :=
  ∀ (words : Vector Word 8) (k : Fin 8) (y x : Fin 16),
    (y.val = 2 * k.val → unpack words 0 y x = (get1 words k).getLsbD x.val) ∧
    (y.val = 2 * k.val + 1 → unpack words 0 y x = (get1 words k).getLsbD (16 + x.val))

/-! ## The configuration -/

/-- R41: a threshold of a well-formed store is in the range of `THR_BITS` bits, and `THR_BITS` is at least 1. -/
def Obligations.ThresholdsAreInRange : Prop :=
  1 ≤ Config.thrBits ∧
  (∀ n : Fin 16, -(2 ^ (Config.thrBits - 1) : Int) ≤ (Config.store.t1 n).toInt ∧
    (Config.store.t1 n).toInt ≤ 2 ^ (Config.thrBits - 1) - 1) ∧
  ∀ n : Fin 32, -(2 ^ (Config.thrBits - 1) : Int) ≤ (Config.store.t2 n).toInt ∧
    (Config.store.t2 n).toInt ≤ 2 ^ (Config.thrBits - 1) - 1

/-- R8, R41, R242: raw tables give a store exactly when `THR_BITS` is at least 1 (R8; that a width of 0 is refused is the
model's choice, log 12) and they are well formed; the refusal names an ill-formed table (which one is log 7); the store
holds the raw tables' elements, thresholds unchanged. -/
def Obligations.StoresAreBuiltFromWellFormedTables : Prop :=
  ∀ (b : Nat) (raw : Config.RawStore),
    ((∃ cfg, loadStore b raw = .ok cfg) ↔ raw.wf b = true) ∧
    (∀ t, loadStore b raw = .error (.configurationError t) → raw.tableOk b t = false) ∧
    ∀ cfg, loadStore b raw = .ok cfg →
      (∀ m n r c, (((raw.w1[m.val]?.bind (·[n.val]?)).bind (·[r.val]?)).bind (·[c.val]?)) = some (cfg.w1 m n r c)) ∧
      (∀ n, raw.t1[n.val]? = some (cfg.t1 n).toInt) ∧
      (∀ m n r c, (((raw.w2[m.val]?.bind (·[n.val]?)).bind (·[r.val]?)).bind (·[c.val]?)) = some (cfg.w2 m n r c)) ∧
      (∀ n, raw.t2[n.val]? = some (cfg.t2 n).toInt) ∧
      (∀ m n, (raw.wd1[m.val]?.bind (·[n.val]?)) = some (cfg.wd1 m n)) ∧
      ∀ m n, (raw.wd2[m.val]?.bind (·[n.val]?)) = some (cfg.wd2 m n)

/-! ## Whole runs -/

/-- R211, R220: from `PAD1` with a complete image, twelve steps append to `OUT_Q` the result word of `classify` of that image
and end at `LOAD`, the waiting words untouched. -/
def Obligations.TwelveStepsClassifyTheImage : Prop :=
  ∀ (s : State) (a : Image), s.seq = 1 → Holds3 s.img a → ∃ t, Host.Core.run Sys2Proof.core 12 s = .next t ∧
    t.outQ = s.outQ ++ [resultWord (classCode (classify Config.store a))] ∧
    t.seq = 0 ∧ t.wcnt = s.wcnt ∧ t.inQ = s.inQ ∧ t.result = some (classCode (classify Config.store a))

/-- R220: from `LOAD` with `WCNT` = 0 and eight words waiting, whatever the buffers hold, one classification is exactly twenty
steps: the codes in `SEQ` are 0 eight times and then 1 to 12, no word is consumed after the eighth step, and the twentieth
step ends with exactly one new word on `OUT_Q`, the class of the image the eight words carry. -/
def Obligations.TwentyStepsPerClassification : Prop :=
  ∀ (s : State) (words : Vector Word 8) (rest : List Word), s.seq = 0 → s.wcnt = 0 → s.inQ = words.toList ++ rest →
    (∀ k, k < 20 → ∃ u, Host.Core.run Sys2Proof.core k s = .next u ∧ u.outQ = s.outQ ∧
      (8 ≤ k → u.inQ = rest) ∧ u.seq.toNat = if k < 8 then 0 else k - 7) ∧
    ∃ t, Host.Core.run Sys2Proof.core 20 s = .next t ∧
      t.outQ = s.outQ ++ [resultWord (classCode (classify Config.store (unpack words)))] ∧
      t.seq = 0 ∧ t.wcnt = 0 ∧ t.inQ = rest

/-- R107, R210: from every cleanly quiescent run with nothing to pop, whatever the buffers hold, the pseudo-operations
`SENDIMG`, `CLASSIFY` and `RECV` give the host the class of the image it sent, and leave the run cleanly quiescent. The list
of host actions and engine steps is the model's form of an interleaving (log 4). -/
def Obligations.SendingAnImageReturnsItsClass : Prop :=
  ∀ (r : Run) (a : Image), r.inst.faultMark = none → r.inst.state.cleanlyQuiescent = true → r.inst.state.outQ = [] →
    ∃ w, (r.acts (sendImage a ++ classifySteps ++ [.hostPop])).popped = r.popped ++ [w] ∧
      classOfWord w = classCode (classify Config.store a) ∧
      (r.acts (sendImage a ++ classifySteps ++ [.hostPop])).inst.faultMark = none ∧
      (r.acts (sendImage a ++ classifySteps ++ [.hostPop])).inst.state.cleanlyQuiescent = true ∧
      (r.acts (sendImage a ++ classifySteps ++ [.hostPop])).inst.state.outQ = []

/-- R213: from a state that meets the invariant with `SEQ` ≠ 0, the engine is at `SEQ` = 0 after at most twelve steps. -/
def Obligations.ReachesLoadInTwelveSteps : Prop :=
  ∀ s : State, s.Ready → s.seq ≠ 0 → ∃ k t, k ≤ 12 ∧ Host.Core.run Sys2Proof.core k s = .next t ∧ t.seq = 0

/-- R225, R222: without a further push, the engine is quiescent after at most `remainingWork` steps and stays so; the
steps beyond quiescence are the model's hold (log 2). -/
def Obligations.WorkEndsInQuiescence : Prop :=
  ∀ (s : State) (k : Nat), s.Ready → s.remainingWork ≤ k →
    ∃ t, Host.Core.run Sys2Proof.core k s = .next t ∧ t.quiescent = true

/-- The history invariant of a run is kept by every engine step and every host action, from every consistent run.
The interleaving by actions is the model's form (log 4). -/
def Obligations.ActionsKeepRunsConsistent : Prop :=
  ∀ (r : Run) (a : Action), r.Consistent → (r.act a).Consistent

/-- R226, R221, R72: after any interleaving of engine steps and host actions from reset, no fault has occurred, the words
that ever appeared on `OUT_Q` are the first of those expected of the words pushed, in order, and all of them once the engine
is quiescent, which further engine steps alone reach. An engine step of a quiescent engine is the hold of log 2. -/
def Obligations.ObservationOfARun : Prop :=
  ∀ actions : List Action,
    (Run.reset.acts actions).inst.faultMark = none ∧
    (Run.reset.acts actions).emitted <+: resultsFor Config.store (Run.reset.acts actions).pushed ∧
    ((Run.reset.acts actions).inst.state.quiescent = true →
      (Run.reset.acts actions).emitted = resultsFor Config.store (Run.reset.acts actions).pushed) ∧
    ∀ k, (Run.reset.acts actions).inst.state.remainingWork ≤ k →
      (Run.reset.acts (actions ++ List.replicate k .engineStep)).inst.state.quiescent = true ∧
      (Run.reset.acts (actions ++ List.replicate k .engineStep)).emitted =
        resultsFor Config.store (Run.reset.acts actions).pushed

/-- R225, R226: in every weakly fair infinite run from a run whose history explains its state, at every instant the words ever
emitted are the first of those expected of the words pushed so far, every complete image pushed so far is eventually
answered, and when the host intends to pop while a word waits (its duty, R225) it eventually has every answer. The form of an
infinite run and of the host's intention is the model's (log 15); an engine step of a quiescent engine is the hold of
log 2. -/
def Obligations.FairRunsAnswerEveryImage : Prop :=
  ∀ (σ : Schedule) (start : Run), start.Consistent → σ.Fair start → ∀ n : Nat,
    (σ.run start n).emitted <+: resultsFor Config.store (σ.run start n).pushed ∧
    (∃ m, n ≤ m ∧ resultsFor Config.store (σ.run start n).pushed <+: (σ.run start m).emitted) ∧
    (σ.HostReceives start → ∃ m, n ≤ m ∧ resultsFor Config.store (σ.run start n).pushed <+: (σ.run start m).popped)

/-- R223: framing is by count: a quiescent engine has `WCNT` = (words pushed) mod 8 and has emitted one word per complete
eight, and the pixels of the incomplete image's words are kept. -/
def Obligations.FramingIsByCount : Prop :=
  ∀ actions : List Action, (Run.reset.acts actions).inst.state.quiescent = true →
    (Run.reset.acts actions).inst.state.wcnt.toNat = (Run.reset.acts actions).pushed.length % 8 ∧
    (Run.reset.acts actions).emitted.length = (Run.reset.acts actions).pushed.length / 8 ∧
    ∀ y x : Fin 16, 16 * y.val + x.val < 32 * ((Run.reset.acts actions).pushed.length % 8) →
      get3 (Run.reset.acts actions).inst.state.img 0 y x =
        some (((Run.reset.acts actions).pushed.getD
          (8 * ((Run.reset.acts actions).pushed.length / 8) + (16 * y.val + x.val) / 32) 0).getLsbD
            ((16 * y.val + x.val) % 32))

/-! ## The host, faults and several instances -/

/-- R216, R217: `HOST_PUSH` appends to `IN_Q`; `HOST_POP` removes the oldest word of `OUT_Q` and is not enabled when there is
none; both touch nothing else. -/
def Obligations.HostActionsTouchOnlyTheStreams : Prop :=
  ∀ s : State,
    (∀ w, (s.hostPush w).inQ = s.inQ ++ [w] ∧ (s.hostPush w).seq = s.seq ∧ s.SameBut .inQ (s.hostPush w)) ∧
    (s.outQ = [] → s.hostPop = none) ∧
    ∀ w rest, s.outQ = w :: rest →
      ∃ t, s.hostPop = some (w, t) ∧ t.outQ = rest ∧ t.seq = s.seq ∧ s.SameBut .outQ t

/-- R72, R251: where an engine step is enabled, a push before it and a push after it give the same state, and so do a pop
before it and a pop after it, with the same word popped. -/
def Obligations.HostActionsCommuteWithSteps : Prop :=
  ∀ s t : State, s.stepEnabled = true → step s = .next t →
    (∀ w, step (s.hostPush w) = .next (t.hostPush w)) ∧
    ∀ w s', s.hostPop = some (w, s') → ∃ t', step s' = .next t' ∧ t.hostPop = some (w, t')

/-- R252, R253: a step that faults changes nothing but the fault mark; a marked instance stays marked and emits nothing more,
whatever the engine or the host does. -/
def Obligations.FaultsAreForGood : Prop :=
  (∀ (s : State) (f : Fault), step s = .fault f →
    ({ state := s, faultMark := none } : Instance).engineStep = { state := s, faultMark := some f }) ∧
  ∀ (r : Run) (f : Fault) (actions : List Action), r.inst.faultMark = some f →
    (r.acts actions).inst.faultMark = some f ∧ (r.acts actions).emitted = r.emitted ∧
    (r.acts actions).inst.state.seq = r.inst.state.seq

/-- R227, R46: whatever the interleaving, each instance's run is the run of its own actions alone. The list of runs is the
model's form (log 9). -/
def Obligations.InstancesDoNotInteract : Prop :=
  ∀ (events : List (Nat × Action)) (instances : List Run) (j : Nat),
    (events.foldl (fun rs e => actOn e.1 e.2 rs) instances)[j]? =
      instances[j]?.map fun r => r.acts ((events.filter fun e => e.1 == j).map Prod.snd)
end

