-- ==== Sys2Proof/Laws/Layers.lean ====
section
/-! SUPPORT. Small facts about the pieces of the layers: the strict comparison, `xnor`, one element of a padded, pooled or
flattened map, and one iteration of the argmax scan. -/

namespace Sys2Proof.Machine

@[simp] theorem exceeds_eq_true {a b : Int} : exceeds a b = true ↔ b < a := by
  simp [exceeds]

@[simp] theorem exceeds_eq_false {a b : Int} : exceeds a b = false ↔ a ≤ b := by
  simp [exceeds]

theorem xnor_le_one (a b : Bool) : xnor a b ≤ 1 := by
  cases a <;> cases b <;> decide

theorem xnor_eq_zero {a b : Bool} : xnor a b = 0 ↔ a = !b := by
  cases a <;> cases b <;> decide

/-- Complementing one argument exchanges agreement and disagreement (41_binarized_conv_engine.md R148). -/
theorem xnor_not_add (a b : Bool) : xnor (!a) b + xnor a b = 1 := by
  cases a <;> cases b <;> rfl

theorem xnor_comm (a b : Bool) : xnor a b = xnor b a := by
  cases a <;> cases b <;> rfl

@[simp] theorem xnor_not_not (a b : Bool) : xnor (!a) (!b) = xnor a b := by
  cases a <;> cases b <;> rfl

/-- An inner element of a padded map is the input element one row up and one column left (R124). -/
theorem padMap_inner {M I : Nat} (a : Map3 Bool M I I) (m : Fin M) (y x : Fin I) :
    padMap a m ⟨y.val + 1, by omega⟩ ⟨x.val + 1, by omega⟩ = a m y x := by
  simp only [padMap]
  rw [dif_pos (by omega)]
  congr 1

/-- A border element of a padded map is 0 (R124). -/
theorem padMap_border {M I : Nat} (a : Map3 Bool M I I) (m : Fin M) (Y X : Fin (I + 2))
    (h : Y.val = 0 ∨ Y.val = I + 1 ∨ X.val = 0 ∨ X.val = I + 1) : padMap a m Y X = false := by
  simp only [padMap]
  rw [dif_neg (by omega)]

/-- A pooled bit is 1 exactly when a source bit of its window is (42_max_pool_reducer.md R163). -/
theorem poolMap_eq_true {M Q : Nat} (a : Map3 Bool M (2 * Q) (2 * Q)) (m : Fin M) (y x : Fin Q) :
    poolMap a m y x = true ↔
      ∃ Y X : Fin (2 * Q), Y.val / 2 = y.val ∧ X.val / 2 = x.val ∧ a m Y X = true := by
  simp only [poolMap, Bool.or_eq_true]
  constructor
  · rintro (((h | h) | h) | h)
    all_goals refine ⟨_, _, ?_, ?_, h⟩ <;> simp <;> omega
  · rintro ⟨⟨Y, hYl⟩, ⟨X, hXl⟩, hY, hX, h⟩
    simp only at hY hX
    have hY' : Y = 2 * y.val ∨ Y = 2 * y.val + 1 := by omega
    have hX' : X = 2 * x.val ∨ X = 2 * x.val + 1 := by omega
    rcases hY' with rfl | rfl <;> rcases hX' with rfl | rfl <;> simp [h]

/-- Position `c + (x + 4·y)·32` of the flat vector holds element `(c, y, x)` (43_flatten.md R170, R171). -/
theorem flattenMap_flatIndex (a : Map3 Bool 32 4 4) (c : Fin 32) (y x : Fin 4) :
    flattenMap a (flatIndex c y x) = a c y x := by
  simp only [flattenMap, flatIndex]
  congr 1 <;> apply Fin.ext <;> simp only <;> omega

theorem argmaxStep_of_lt {v : Fin 10 → Int} {acc : Int × Fin 10} {i : Fin 10} (h : acc.1 < v i) :
    argmaxStep v acc i = (v i, i) := by
  rw [argmaxStep, if_pos (exceeds_eq_true.2 h)]

theorem argmaxStep_of_le {v : Fin 10 → Int} {acc : Int × Fin 10} {i : Fin 10} (h : v i ≤ acc.1) :
    argmaxStep v acc i = acc := by
  rw [argmaxStep, if_neg (by simp [h])]

/-- The code of a class index is the index (10_state.md R22, 46_argmax_classifier.md R203). -/
theorem classCode_toNat (i : Fin 10) : (classCode i).toNat = i.val := by
  simp only [classCode, BitVec.toNat_ofNat]
  omega

theorem resultWord_toNat (r : BitVec 4) : (resultWord r).toNat = r.toNat := by
  simp only [resultWord, BitVec.toNat_setWidth]
  omega

end Sys2Proof.Machine
end

