-- ==== Sys2Proof/Laws/Ops.lean ====
section
/-! SUPPORT. What the named operations do, once: reads after tabulation and after writes, when a whole-source read answers
and when it faults, and when an operation on a source steps. -/

namespace Sys2Proof.Machine

variable {α : Type} {C H W n : Nat}

@[simp] theorem get1_tab1 (f : Fin n → α) (i : Fin n) : get1 (tab1 f) i = f i := by
  simp [get1, tab1]

@[simp] theorem get3_tab3 (f : Map3 α C H W) (c : Fin C) (y : Fin H) (x : Fin W) : get3 (tab3 f) c y x = f c y x := by
  simp [get3, tab3]

@[simp] theorem get3_written3 (f : Map3 Bool C H W) (c : Fin C) (y : Fin H) (x : Fin W) :
    get3 (written3 f) c y x = some (f c y x) := by
  simp [written3]

@[simp] theorem get1_written1 (f : Fin n → α) (i : Fin n) : get1 (written1 f) i = some (f i) := by
  simp [written1]

@[simp] theorem get3_unwritten3 (c : Fin C) (y : Fin H) (x : Fin W) : get3 (unwritten3 C H W) c y x = none := by
  simp [get3, get1, unwritten3]

@[simp] theorem get1_unwritten1 (i : Fin n) : get1 (unwritten1 α n) i = none := by
  simp [get1, unwritten1]

/-- Two vectors with the same elements are the same. -/
theorem ext_get1 {v w : Vector α n} (h : ∀ i, get1 v i = get1 w i) : v = w :=
  Vector.ext fun i hi => h ⟨i, hi⟩

/-- Two tensors with the same elements are the same. -/
theorem ext_get3 {t u : Tensor3 α C H W} (h : ∀ c y x, get3 t c y x = get3 u c y x) : t = u :=
  ext_get1 fun c => ext_get1 fun y => ext_get1 fun x => h c y x

theorem get1_set1 (v : Vector α n) (i j : Fin n) (a : α) : get1 (set1 v i a) j = if j = i then a else get1 v j := by
  simp only [get1, set1, Vector.getElem_set, Fin.ext_iff]
  split <;> split <;> first | rfl | omega

/-- R120: an element write changes that element and no other. -/
theorem get3_set3 (t : Tensor3 α C H W) (c c' : Fin C) (y y' : Fin H) (x x' : Fin W) (a : α) :
    get3 (set3 t c y x a) c' y' x' = if c' = c ∧ y' = y ∧ x' = x then a else get3 t c' y' x' := by
  simp only [get3, set3, get1_set1]
  by_cases hc : c' = c <;> by_cases hy : y' = y <;> simp [hc, hy, get1_set1]

theorem get3_memWrite3 (b : BitBuffer C H W) (c c' : Fin C) (y y' : Fin H) (x x' : Fin W) (v : Bool) :
    get3 (memWrite3 b c y x v) c' y' x' = if c' = c ∧ y' = y ∧ x' = x then some v else get3 b c' y' x' :=
  get3_set3 ..

@[simp] theorem get1_map1 {β : Type} (f : α → β) (v : Vector α n) (i : Fin n) : get1 (map1 f v) i = f (get1 v i) := by
  simp [get1, map1]

/-- A search along a list finds nothing exactly when it finds nothing in any entry. -/
theorem firstPath_none_iff {find : α → Option (List Nat)} {k : Nat} {l : List α} :
    firstPath find k l = none ↔ ∀ a ∈ l, find a = none := by
  induction l generalizing k with
  | nil => simp [firstPath]
  | cons a rest ih => cases h : find a <;> simp [firstPath, h, ih]

/-- The path a search finds leads to an entry in which the search finds the rest of the path. -/
theorem firstPath_some {find : α → Option (List Nat)} {k : Nat} {l : List α} {path : List Nat}
    (h : firstPath find k l = some path) : ∃ i a tail, l[i]? = some a ∧ find a = some tail ∧ path = (k + i) :: tail := by
  induction l generalizing k with
  | nil => simp [firstPath] at h
  | cons a rest ih =>
    cases ha : find a with
    | some tail =>
      simp only [firstPath, ha, Option.some.injEq] at h
      exact ⟨0, a, tail, rfl, ha, h.symm⟩
    | none =>
      simp only [firstPath, ha] at h
      obtain ⟨i, a', tail, h1, h2, h3⟩ := ih h
      exact ⟨i + 1, a', tail, by simpa using h1, h2, by rw [h3]; congr 1; omega⟩

theorem firstBot1_none_iff {b : VecBuffer α n} : firstBot1 b = none ↔ ∀ i, (get1 b i).isSome := by
  simp only [firstBot1, firstPath_none_iff, botPath, get1]
  constructor
  · intro h i
    have := h b[i.val] (by simp)
    cases hb : b[i.val] <;> simp_all
  · intro h a ha
    obtain ⟨i, hi, rfl⟩ := List.getElem_of_mem ha
    have := h ⟨i, by simpa using hi⟩
    simp_all [Option.isSome_iff_ne_none]

theorem firstBot1_some {b : VecBuffer α n} {index : List Nat} (h : firstBot1 b = some index) :
    ∃ i, get1 b i = none ∧ index = [i.val] := by
  obtain ⟨i, a, tail, h1, h2, h3⟩ := firstPath_some h
  obtain ⟨hi, rfl⟩ := List.getElem?_eq_some_iff.1 h1
  have hn : i < n := by simpa using hi
  unfold botPath at h2
  split at h2
  · next hb => exact ⟨⟨i, hn⟩, by simpa [get1] using hb, by cases h2; simp [h3]⟩
  · cases h2

theorem firstBot3_none_iff {b : BitBuffer C H W} : firstBot3 b = none ↔ ∀ c y x, (get3 b c y x).isSome := by
  simp only [firstBot3, firstPath_none_iff, firstBot1_none_iff]
  constructor
  · intro h c y x
    exact h b[c.val] (by simp) b[c.val][y.val] (by simp) x
  · intro h p hp r hr x
    obtain ⟨c, hc, rfl⟩ := List.getElem_of_mem hp
    obtain ⟨y, hy, rfl⟩ := List.getElem_of_mem hr
    have := h ⟨c, by simpa using hc⟩ ⟨y, by simpa using hy⟩ x
    simpa [get3, get1] using this

theorem firstBot3_some {b : BitBuffer C H W} {index : List Nat} (h : firstBot3 b = some index) :
    ∃ c y x, get3 b c y x = none ∧ index = [c.val, y.val, x.val] := by
  obtain ⟨c, p, tail, h1, h2, h3⟩ := firstPath_some h
  obtain ⟨y, r, tail', h4, h5, h6⟩ := firstPath_some h2
  obtain ⟨x, h7, h8⟩ := firstBot1_some h5
  obtain ⟨hc, rfl⟩ := List.getElem?_eq_some_iff.1 h1
  obtain ⟨hy, rfl⟩ := List.getElem?_eq_some_iff.1 h4
  refine ⟨⟨c, by simpa using hc⟩, ⟨y, by simpa using hy⟩, x, by simpa [get3, get1] using h7, ?_⟩
  simp [h3, h6, h8]

/-- The read of a whole bit buffer answers `f` exactly when the buffer holds `f` with no `⊥`. -/
theorem readAll3_eq_ok {buffer : Buffer} {b : BitBuffer C H W} {f : Map3 Bool C H W} :
    readAll3 buffer b = .ok f ↔ b = written3 f := by
  constructor
  · intro h
    unfold readAll3 at h
    split at h
    · next hr =>
      have hall := firstBot3_none_iff.1 hr
      cases h
      refine ext_get3 fun c y x => ?_
      have := hall c y x
      cases hg : get3 b c y x <;> simp_all
    · cases h
  · rintro rfl
    have hr : firstBot3 (written3 f) = none := firstBot3_none_iff.2 (by simp)
    simp [readAll3, hr]

/-- The read of a whole bit buffer faults only by `UnwrittenRead` at an index whose element is `⊥`. -/
theorem readAll3_error {buffer : Buffer} {b : BitBuffer C H W} {e : Fault} (h : readAll3 buffer b = .error e) :
    ∃ c y x, get3 b c y x = none ∧ e = .unwrittenRead buffer [c.val, y.val, x.val] := by
  unfold readAll3 at h
  split at h
  · cases h
  · next index hr =>
    obtain ⟨c, y, x, hn, rfl⟩ := firstBot3_some hr
    cases h
    exact ⟨c, y, x, hn, rfl⟩

theorem readAll1_eq_ok [Inhabited α] {buffer : Buffer} {b : VecBuffer α n} {f : Fin n → α} :
    readAll1 buffer b = .ok f ↔ b = written1 f := by
  constructor
  · intro h
    unfold readAll1 at h
    split at h
    · next hr =>
      have hall := firstBot1_none_iff.1 hr
      cases h
      refine ext_get1 fun i => ?_
      have := hall i
      cases hg : get1 b i <;> simp_all
    · cases h
  · rintro rfl
    have hr : firstBot1 (written1 f) = none := firstBot1_none_iff.2 (by simp)
    simp [readAll1, hr]

theorem readAll1_error [Inhabited α] {buffer : Buffer} {b : VecBuffer α n} {e : Fault}
    (h : readAll1 buffer b = .error e) : ∃ i, get1 b i = none ∧ e = .unwrittenRead buffer [i.val] := by
  unfold readAll1 at h
  split at h
  · cases h
  · next index hr =>
    obtain ⟨i, hn, rfl⟩ := firstBot1_some hr
    cases h
    exact ⟨i, hn, rfl⟩

/-- A whole-buffer read answers exactly when the element read at every index does, with the same bits (R120). -/
theorem readAll3_eq_ok_iff_memRead3 {buffer : Buffer} {b : BitBuffer C H W} {f : Map3 Bool C H W} :
    readAll3 buffer b = .ok f ↔ ∀ c y x, memRead3 buffer b c y x = .ok (f c y x) := by
  rw [readAll3_eq_ok]
  constructor
  · rintro rfl c y x
    simp [memRead3, readElement]
  · intro h
    refine ext_get3 fun c y x => ?_
    have := h c y x
    cases hg : get3 b c y x <;> simp_all [memRead3, readElement]

/-- A whole-vector read answers exactly when the element read at every index does, with the same values (R120). -/
theorem readAll1_eq_ok_iff_memRead1 [Inhabited α] {buffer : Buffer} {b : VecBuffer α n} {f : Fin n → α} :
    readAll1 buffer b = .ok f ↔ ∀ i, memRead1 buffer b i = .ok (f i) := by
  rw [readAll1_eq_ok]
  constructor
  · rintro rfl i
    simp [memRead1, readElement]
  · intro h
    refine ext_get1 fun i => ?_
    have := h i
    cases hg : get1 b i <;> simp_all [memRead1, readElement]

theorem readRegister_eq_ok {buffer : Buffer} {r : Option α} {v : α} :
    readRegister buffer r = .ok v ↔ r = some v := by
  cases r <;> simp [readRegister, readElement]

theorem readRegister_eq_error {buffer : Buffer} {r : Option α} {f : Fault} :
    readRegister buffer r = .error f ↔ r = none ∧ f = .unwrittenRead buffer [] := by
  cases r <;> simp [readRegister, readElement, eq_comm]

/-- A buffer holds `f` element by element exactly when it is the buffer tabulated from `f`. -/
theorem eq_written3_iff {b : BitBuffer C H W} {f : Map3 Bool C H W} :
    b = written3 f ↔ ∀ c y x, get3 b c y x = some (f c y x) :=
  ⟨by rintro rfl; simp, fun h => ext_get3 (by simpa using h)⟩

theorem eq_written1_iff {b : VecBuffer α n} {f : Fin n → α} : b = written1 f ↔ ∀ i, get1 b i = some (f i) :=
  ⟨by rintro rfl; simp, fun h => ext_get1 (by simpa using h)⟩

/-- A buffer without `⊥` holds some map. -/
theorem exists_written3 {b : BitBuffer C H W} (h : ∀ c y x, (get3 b c y x).isSome) : ∃ f, b = written3 f :=
  ⟨fun c y x => (get3 b c y x).get (h c y x), eq_written3_iff.2 (by simp)⟩

theorem exists_written1 {b : VecBuffer α n} (h : ∀ i, (get1 b i).isSome) : ∃ f, b = written1 f :=
  ⟨fun i => (get1 b i).get (h i), eq_written1_iff.2 (by simp)⟩

/-- An operation on a source steps exactly when the source read answers. -/
theorem onSource_next_iff {r : Except Fault α} {k : α → State} {t : State} :
    onSource r k = .next t ↔ ∃ v, r = .ok v ∧ t = k v := by
  cases r <;> simp [onSource, raise, eq_comm]

theorem onSource_ok (v : α) (k : α → State) : onSource (.ok v) k = .next (k v) := rfl

/-- An operation on a source faults exactly when the source read does, and is never refused. -/
theorem onSource_fault_iff {r : Except Fault α} {k : α → State} {f : Fault} :
    onSource r k = .fault f ↔ r = .error f := by
  cases r <;> simp [onSource, raise]

theorem onSource_not_refused {r : Except Fault α} {k : α → State} {q : Refusal} : onSource r k ≠ .refused q := by
  cases r <;> simp [onSource, raise]

/-- An operation on a whole bit buffer that holds a `⊥` faults at an index whose element is `⊥`. -/
theorem onSource_readAll3_bot {buffer : Buffer} {b : BitBuffer C H W} {k : Map3 Bool C H W → State}
    (h : ¬ ∀ c y x, (get3 b c y x).isSome) :
    ∃ c y x, get3 b c y x = none ∧
      onSource (readAll3 buffer b) k = .fault (.unwrittenRead buffer [c.val, y.val, x.val]) := by
  cases hr : readAll3 buffer b with
  | ok f => rw [readAll3_eq_ok] at hr; subst hr; simp at h
  | error e =>
    obtain ⟨c, y, x, hn, rfl⟩ := readAll3_error hr
    exact ⟨c, y, x, hn, rfl⟩

/-- An operation on a whole vector buffer that holds a `⊥` faults at an index whose element is `⊥`. -/
theorem onSource_readAll1_bot [Inhabited α] {buffer : Buffer} {b : VecBuffer α n} {k : (Fin n → α) → State}
    (h : ¬ ∀ i, (get1 b i).isSome) :
    ∃ i, get1 b i = none ∧ onSource (readAll1 buffer b) k = .fault (.unwrittenRead buffer [i.val]) := by
  cases hr : readAll1 buffer b with
  | ok f => rw [readAll1_eq_ok] at hr; subst hr; simp at h
  | error e =>
    obtain ⟨i, hn, rfl⟩ := readAll1_error hr
    exact ⟨i, hn, rfl⟩

end Sys2Proof.Machine
end

