-- ==== Sys2Proof/Laws/State.lean ====
section
/-! SUPPORT. One lemma per field and named update of State, each true by unfolding the update once. -/

namespace Sys2Proof.Machine

@[simp] theorem State.invalidate_seq (s : State) : s.invalidate.seq = s.seq := rfl
@[simp] theorem State.invalidate_wcnt (s : State) : s.invalidate.wcnt = s.wcnt := rfl
@[simp] theorem State.invalidate_result (s : State) : s.invalidate.result = none := rfl
@[simp] theorem State.invalidate_img (s : State) : s.invalidate.img = unwritten3 1 16 16 := rfl
@[simp] theorem State.invalidate_padbuf1 (s : State) : s.invalidate.padbuf1 = unwritten3 1 18 18 := rfl
@[simp] theorem State.invalidate_fmC1 (s : State) : s.invalidate.fmC1 = unwritten3 16 16 16 := rfl
@[simp] theorem State.invalidate_fmP1 (s : State) : s.invalidate.fmP1 = unwritten3 16 8 8 := rfl
@[simp] theorem State.invalidate_padbuf2 (s : State) : s.invalidate.padbuf2 = unwritten3 16 10 10 := rfl
@[simp] theorem State.invalidate_fmC2 (s : State) : s.invalidate.fmC2 = unwritten3 32 8 8 := rfl
@[simp] theorem State.invalidate_fmP2 (s : State) : s.invalidate.fmP2 = unwritten3 32 4 4 := rfl
@[simp] theorem State.invalidate_flat (s : State) : s.invalidate.flat = unwritten1 Bool 512 := rfl
@[simp] theorem State.invalidate_dv1 (s : State) : s.invalidate.dv1 = unwritten1 Int 256 := rfl
@[simp] theorem State.invalidate_act1 (s : State) : s.invalidate.act1 = unwritten1 Bool 256 := rfl
@[simp] theorem State.invalidate_dv2 (s : State) : s.invalidate.dv2 = unwritten1 Int 10 := rfl
@[simp] theorem State.invalidate_inQ (s : State) : s.invalidate.inQ = s.inQ := rfl
@[simp] theorem State.invalidate_outQ (s : State) : s.invalidate.outQ = s.outQ := rfl

@[simp] theorem State.pushOut_seq (s : State) (w : Word) : (s.pushOut w).seq = s.seq := rfl
@[simp] theorem State.pushOut_wcnt (s : State) (w : Word) : (s.pushOut w).wcnt = s.wcnt := rfl
@[simp] theorem State.pushOut_result (s : State) (w : Word) : (s.pushOut w).result = s.result := rfl
@[simp] theorem State.pushOut_img (s : State) (w : Word) : (s.pushOut w).img = s.img := rfl
@[simp] theorem State.pushOut_padbuf1 (s : State) (w : Word) : (s.pushOut w).padbuf1 = s.padbuf1 := rfl
@[simp] theorem State.pushOut_fmC1 (s : State) (w : Word) : (s.pushOut w).fmC1 = s.fmC1 := rfl
@[simp] theorem State.pushOut_fmP1 (s : State) (w : Word) : (s.pushOut w).fmP1 = s.fmP1 := rfl
@[simp] theorem State.pushOut_padbuf2 (s : State) (w : Word) : (s.pushOut w).padbuf2 = s.padbuf2 := rfl
@[simp] theorem State.pushOut_fmC2 (s : State) (w : Word) : (s.pushOut w).fmC2 = s.fmC2 := rfl
@[simp] theorem State.pushOut_fmP2 (s : State) (w : Word) : (s.pushOut w).fmP2 = s.fmP2 := rfl
@[simp] theorem State.pushOut_flat (s : State) (w : Word) : (s.pushOut w).flat = s.flat := rfl
@[simp] theorem State.pushOut_dv1 (s : State) (w : Word) : (s.pushOut w).dv1 = s.dv1 := rfl
@[simp] theorem State.pushOut_act1 (s : State) (w : Word) : (s.pushOut w).act1 = s.act1 := rfl
@[simp] theorem State.pushOut_dv2 (s : State) (w : Word) : (s.pushOut w).dv2 = s.dv2 := rfl
@[simp] theorem State.pushOut_inQ (s : State) (w : Word) : (s.pushOut w).inQ = s.inQ := rfl
@[simp] theorem State.pushOut_outQ (s : State) (w : Word) : (s.pushOut w).outQ = s.outQ ++ [w] := rfl

@[simp] theorem State.hostPush_seq (s : State) (w : Word) : (s.hostPush w).seq = s.seq := rfl
@[simp] theorem State.hostPush_wcnt (s : State) (w : Word) : (s.hostPush w).wcnt = s.wcnt := rfl
@[simp] theorem State.hostPush_result (s : State) (w : Word) : (s.hostPush w).result = s.result := rfl
@[simp] theorem State.hostPush_img (s : State) (w : Word) : (s.hostPush w).img = s.img := rfl
@[simp] theorem State.hostPush_padbuf1 (s : State) (w : Word) : (s.hostPush w).padbuf1 = s.padbuf1 := rfl
@[simp] theorem State.hostPush_fmC1 (s : State) (w : Word) : (s.hostPush w).fmC1 = s.fmC1 := rfl
@[simp] theorem State.hostPush_fmP1 (s : State) (w : Word) : (s.hostPush w).fmP1 = s.fmP1 := rfl
@[simp] theorem State.hostPush_padbuf2 (s : State) (w : Word) : (s.hostPush w).padbuf2 = s.padbuf2 := rfl
@[simp] theorem State.hostPush_fmC2 (s : State) (w : Word) : (s.hostPush w).fmC2 = s.fmC2 := rfl
@[simp] theorem State.hostPush_fmP2 (s : State) (w : Word) : (s.hostPush w).fmP2 = s.fmP2 := rfl
@[simp] theorem State.hostPush_flat (s : State) (w : Word) : (s.hostPush w).flat = s.flat := rfl
@[simp] theorem State.hostPush_dv1 (s : State) (w : Word) : (s.hostPush w).dv1 = s.dv1 := rfl
@[simp] theorem State.hostPush_act1 (s : State) (w : Word) : (s.hostPush w).act1 = s.act1 := rfl
@[simp] theorem State.hostPush_dv2 (s : State) (w : Word) : (s.hostPush w).dv2 = s.dv2 := rfl
@[simp] theorem State.hostPush_inQ (s : State) (w : Word) : (s.hostPush w).inQ = s.inQ ++ [w] := rfl
@[simp] theorem State.hostPush_outQ (s : State) (w : Word) : (s.hostPush w).outQ = s.outQ := rfl

/-- Two states equal in every field are equal. -/
theorem State.ext_fields {s t : State}
    (h_seq : s.seq = t.seq)
    (h_wcnt : s.wcnt = t.wcnt)
    (h_result : s.result = t.result)
    (h_img : s.img = t.img)
    (h_padbuf1 : s.padbuf1 = t.padbuf1)
    (h_fmC1 : s.fmC1 = t.fmC1)
    (h_fmP1 : s.fmP1 = t.fmP1)
    (h_padbuf2 : s.padbuf2 = t.padbuf2)
    (h_fmC2 : s.fmC2 = t.fmC2)
    (h_fmP2 : s.fmP2 = t.fmP2)
    (h_flat : s.flat = t.flat)
    (h_dv1 : s.dv1 = t.dv1)
    (h_act1 : s.act1 = t.act1)
    (h_dv2 : s.dv2 = t.dv2)
    (h_inQ : s.inQ = t.inQ)
    (h_outQ : s.outQ = t.outQ) : s = t := by
  cases s; cases t; simp_all

end Sys2Proof.Machine
end

