-- ==== Sys2Proof/Laws/Load.lean ====
section
/-! SUPPORT. What consuming one image word does: the pixels it writes and every field of the state after it. -/

namespace Sys2Proof.Machine

theorem pixelOf_eq_iff (k : BitVec 3) (j : Fin 32) (y x : Fin 16) :
    (y = (pixelOf k j).1 ∧ x = (pixelOf k j).2) ↔
      ((16 * y.val + x.val) / 32 = k.toNat ∧ (16 * y.val + x.val) % 32 = j.val) := by
  have hk := k.isLt
  simp only [pixelOf, Fin.ext_iff]
  omega

/-- A fold of writes of one word's bits over a list of bit numbers. -/
theorem get3_foldl_write (img : BitBuffer 1 16 16) (k : BitVec 3) (w : Word) (l : List (Fin 32)) (c : Fin 1) (y x : Fin 16) :
    get3 (l.foldl (fun b j => memWrite3 b 0 (pixelOf k j).1 (pixelOf k j).2 (w.getLsbD j.val)) img) c y x =
      if (16 * y.val + x.val) / 32 = k.toNat ∧ ∃ j ∈ l, j.val = (16 * y.val + x.val) % 32 then
        some (w.getLsbD ((16 * y.val + x.val) % 32))
      else get3 img c y x := by
  induction l using List.reverseRecOn with
  | nil => simp
  | append_singleton l j ih =>
    have hc : c = 0 := Subsingleton.elim _ _
    have hp := pixelOf_eq_iff k j y x
    rw [List.foldl_append, List.foldl_cons, List.foldl_nil, get3_memWrite3, ih]
    by_cases h1 : (16 * y.val + x.val) / 32 = k.toNat
    · by_cases h2 : (16 * y.val + x.val) % 32 = j.val
      · rw [if_pos ⟨hc, hp.2 ⟨h1, h2⟩⟩, if_pos ⟨h1, j, by simp, h2.symm⟩, h2]
      · rw [if_neg fun h => h2 (hp.1 h.2).2]
        have : (∃ i ∈ l ++ [j], i.val = (16 * y.val + x.val) % 32) ↔ ∃ i ∈ l, i.val = (16 * y.val + x.val) % 32 := by
          constructor
          · rintro ⟨i, hi, he⟩
            rcases List.mem_append.1 hi with hi | hi
            · exact ⟨i, hi, he⟩
            · rw [List.mem_singleton.1 hi] at he; exact absurd he.symm h2
          · rintro ⟨i, hi, he⟩
            exact ⟨i, by simp [hi], he⟩
        simp only [this]
    · rw [if_neg fun h => h1 (hp.1 h.2).1, if_neg fun h => h1 h.1, if_neg fun h => h1 h.1]

/-- R63 and R215: after the word with `WCNT = k`, pixel `(y, x)` is bit `p mod 32` of the word when `p div 32 = k`, and as
before otherwise, where `p = 16·y + x`. -/
theorem get3_writePixels (img : BitBuffer 1 16 16) (k : BitVec 3) (w : Word) (c : Fin 1) (y x : Fin 16) :
    get3 (writePixels img k w) c y x =
      if (16 * y.val + x.val) / 32 = k.toNat then some (w.getLsbD ((16 * y.val + x.val) % 32)) else get3 img c y x := by
  have h : ∃ j ∈ List.finRange 32, j.val = (16 * y.val + x.val) % 32 :=
    ⟨⟨(16 * y.val + x.val) % 32, by omega⟩, List.mem_finRange _, rfl⟩
  rw [writePixels, get3_foldl_write]
  simp only [h, and_true]

variable (w : Word) (s : State)

theorem consumeWord_seq : (consumeWord w s).seq = if s.wcnt = 7 then 1 else s.seq := by
  unfold consumeWord; dsimp only; split <;> split <;> rfl

theorem consumeWord_wcnt : (consumeWord w s).wcnt = if s.wcnt = 7 then 0 else s.wcnt + 1 := by
  unfold consumeWord; dsimp only; split <;> split <;> rfl

/-- The counter as a number, wrapping after the eighth word. -/
theorem consumeWord_wcnt_toNat : (consumeWord w s).wcnt.toNat = (s.wcnt.toNat + 1) % 8 := by
  rw [consumeWord_wcnt]
  split
  · next h => simp [h]
  · next h => simp [BitVec.toNat_add]

theorem consumeWord_img : (consumeWord w s).img =
    writePixels (if s.wcnt = 0 then unwritten3 1 16 16 else s.img) s.wcnt w := by
  unfold consumeWord; dsimp only; split <;> split <;> rfl

@[simp] theorem consumeWord_inQ : (consumeWord w s).inQ = s.inQ := by
  unfold consumeWord; dsimp only; split <;> split <;> rfl

@[simp] theorem consumeWord_outQ : (consumeWord w s).outQ = s.outQ := by
  unfold consumeWord; dsimp only; split <;> split <;> rfl

/-- Consuming a word neither reads nor writes the streams: the word is already popped. -/
theorem consumeWord_streams (q o : List Word) :
    consumeWord w { s with inQ := q, outQ := o } = { consumeWord w s with inQ := q, outQ := o } := by
  unfold consumeWord
  dsimp only
  by_cases h0 : s.wcnt = 0 <;> by_cases h7 : s.wcnt = 7 <;> simp only [h0, h7, if_true, if_false] <;> rfl

theorem consumeWord_result : (consumeWord w s).result = if s.wcnt = 0 then none else s.result := by
  unfold consumeWord; dsimp only; split <;> split <;> rfl

theorem consumeWord_padbuf1 : (consumeWord w s).padbuf1 = if s.wcnt = 0 then unwritten3 1 18 18 else s.padbuf1 := by
  unfold consumeWord; dsimp only; split <;> split <;> rfl

theorem consumeWord_fmC1 : (consumeWord w s).fmC1 = if s.wcnt = 0 then unwritten3 16 16 16 else s.fmC1 := by
  unfold consumeWord; dsimp only; split <;> split <;> rfl

theorem consumeWord_fmP1 : (consumeWord w s).fmP1 = if s.wcnt = 0 then unwritten3 16 8 8 else s.fmP1 := by
  unfold consumeWord; dsimp only; split <;> split <;> rfl

theorem consumeWord_padbuf2 : (consumeWord w s).padbuf2 = if s.wcnt = 0 then unwritten3 16 10 10 else s.padbuf2 := by
  unfold consumeWord; dsimp only; split <;> split <;> rfl

theorem consumeWord_fmC2 : (consumeWord w s).fmC2 = if s.wcnt = 0 then unwritten3 32 8 8 else s.fmC2 := by
  unfold consumeWord; dsimp only; split <;> split <;> rfl

theorem consumeWord_fmP2 : (consumeWord w s).fmP2 = if s.wcnt = 0 then unwritten3 32 4 4 else s.fmP2 := by
  unfold consumeWord; dsimp only; split <;> split <;> rfl

theorem consumeWord_flat : (consumeWord w s).flat = if s.wcnt = 0 then unwritten1 Bool 512 else s.flat := by
  unfold consumeWord; dsimp only; split <;> split <;> rfl

theorem consumeWord_dv1 : (consumeWord w s).dv1 = if s.wcnt = 0 then unwritten1 Int 256 else s.dv1 := by
  unfold consumeWord; dsimp only; split <;> split <;> rfl

theorem consumeWord_act1 : (consumeWord w s).act1 = if s.wcnt = 0 then unwritten1 Bool 256 else s.act1 := by
  unfold consumeWord; dsimp only; split <;> split <;> rfl

theorem consumeWord_dv2 : (consumeWord w s).dv2 = if s.wcnt = 0 then unwritten1 Int 10 else s.dv2 := by
  unfold consumeWord; dsimp only; split <;> split <;> rfl

end Sys2Proof.Machine
end

