-- ==== Sys2Proof/Laws/PerInstr.lean ====
section
/-! SUPPORT. One lemma per operation of the facts that hold of every operation as syntax. -/

namespace Sys2Proof.Laws.Wiring

/-- The operation is well formed, its code is one of the thirteen legal codes (30_encoding.md R102), and its one source and
its one destination are different places (20_memory.md R61). -/
def Statement (i : Instr) : Prop := i.wf = true ∧ seqLegal (encode i) = true ∧ i.source ≠ i.dest

theorem load : Statement .load := ⟨rfl, rfl, by decide⟩
theorem pad1 : Statement .pad1 := ⟨rfl, rfl, by decide⟩
theorem conv1 : Statement .conv1 := ⟨rfl, rfl, by decide⟩
theorem pool1 : Statement .pool1 := ⟨rfl, rfl, by decide⟩
theorem pad2 : Statement .pad2 := ⟨rfl, rfl, by decide⟩
theorem conv2 : Statement .conv2 := ⟨rfl, rfl, by decide⟩
theorem pool2 : Statement .pool2 := ⟨rfl, rfl, by decide⟩
theorem flatten : Statement .flatten := ⟨rfl, rfl, by decide⟩
theorem dense1 : Statement .dense1 := ⟨rfl, rfl, by decide⟩
theorem sign : Statement .sign := ⟨rfl, rfl, by decide⟩
theorem dense2 : Statement .dense2 := ⟨rfl, rfl, by decide⟩
theorem argmax : Statement .argmax := ⟨rfl, rfl, by decide⟩
theorem emit : Statement .emit := ⟨rfl, rfl, by decide⟩

end Sys2Proof.Laws.Wiring
end

