-- ==== Sys2Proof/Laws/Stages.lean ====
section
/-! SUPPORT. What each stage can do, once: it steps exactly when its source holds no `⊥`, to the state in which its
destination holds its value and `SEQ` its successor; otherwise it faults. -/

namespace Sys2Proof.Machine

theorem execPad1_next_iff {s t : State} : execPad1 s = .next t ↔
    ∃ a : Map3 Bool 1 16 16, s.img = written3 a ∧ t = { s with padbuf1 := written3 (padMap (I := 16) a), seq := 2 } := by
  simp only [execPad1, State.readImg, onSource_next_iff, readAll3_eq_ok]

theorem execPad1_of_holds {s : State} (a : Map3 Bool 1 16 16) (h : s.img = written3 a) :
    execPad1 s = .next { s with padbuf1 := written3 (padMap (I := 16) a), seq := 2 } := execPad1_next_iff.2 ⟨a, h, rfl⟩

theorem execConv1_next_iff {s t : State} : execConv1 s = .next t ↔
    ∃ a : Map3 Bool 1 18 18, s.padbuf1 = written3 a ∧
      t = { s with fmC1 := written3 (convMap (O := 16) Config.store.w1 (fun n => (Config.store.t1 n).toInt) a), seq := 3 } := by
  simp only [execConv1, conv1With, State.readPadbuf1, onSource_next_iff, readAll3_eq_ok]

theorem execConv1_of_holds {s : State} (a : Map3 Bool 1 18 18) (h : s.padbuf1 = written3 a) :
    execConv1 s = .next { s with fmC1 := written3 (convMap (O := 16) Config.store.w1 (fun n => (Config.store.t1 n).toInt) a), seq := 3 } :=
  execConv1_next_iff.2 ⟨a, h, rfl⟩

theorem execPool1_next_iff {s t : State} : execPool1 s = .next t ↔
    ∃ a : Map3 Bool 16 16 16, s.fmC1 = written3 a ∧ t = { s with fmP1 := written3 (poolMap (Q := 8) a), seq := 4 } := by
  simp only [execPool1, State.readFmC1, onSource_next_iff, readAll3_eq_ok]

theorem execPool1_of_holds {s : State} (a : Map3 Bool 16 16 16) (h : s.fmC1 = written3 a) :
    execPool1 s = .next { s with fmP1 := written3 (poolMap (Q := 8) a), seq := 4 } := execPool1_next_iff.2 ⟨a, h, rfl⟩

theorem execPad2_next_iff {s t : State} : execPad2 s = .next t ↔
    ∃ a : Map3 Bool 16 8 8, s.fmP1 = written3 a ∧ t = { s with padbuf2 := written3 (padMap (I := 8) a), seq := 5 } := by
  simp only [execPad2, State.readFmP1, onSource_next_iff, readAll3_eq_ok]

theorem execPad2_of_holds {s : State} (a : Map3 Bool 16 8 8) (h : s.fmP1 = written3 a) :
    execPad2 s = .next { s with padbuf2 := written3 (padMap (I := 8) a), seq := 5 } := execPad2_next_iff.2 ⟨a, h, rfl⟩

theorem execConv2_next_iff {s t : State} : execConv2 s = .next t ↔
    ∃ a : Map3 Bool 16 10 10, s.padbuf2 = written3 a ∧
      t = { s with fmC2 := written3 (convMap (O := 8) Config.store.w2 (fun n => (Config.store.t2 n).toInt) a), seq := 6 } := by
  simp only [execConv2, conv2With, State.readPadbuf2, onSource_next_iff, readAll3_eq_ok]

theorem execConv2_of_holds {s : State} (a : Map3 Bool 16 10 10) (h : s.padbuf2 = written3 a) :
    execConv2 s = .next { s with fmC2 := written3 (convMap (O := 8) Config.store.w2 (fun n => (Config.store.t2 n).toInt) a), seq := 6 } :=
  execConv2_next_iff.2 ⟨a, h, rfl⟩

theorem execPool2_next_iff {s t : State} : execPool2 s = .next t ↔
    ∃ a : Map3 Bool 32 8 8, s.fmC2 = written3 a ∧ t = { s with fmP2 := written3 (poolMap (Q := 4) a), seq := 7 } := by
  simp only [execPool2, State.readFmC2, onSource_next_iff, readAll3_eq_ok]

theorem execPool2_of_holds {s : State} (a : Map3 Bool 32 8 8) (h : s.fmC2 = written3 a) :
    execPool2 s = .next { s with fmP2 := written3 (poolMap (Q := 4) a), seq := 7 } := execPool2_next_iff.2 ⟨a, h, rfl⟩

theorem execFlatten_next_iff {s t : State} : execFlatten s = .next t ↔
    ∃ a : Map3 Bool 32 4 4, s.fmP2 = written3 a ∧ t = { s with flat := written1 (flattenMap a), seq := 8 } := by
  simp only [execFlatten, State.readFmP2, onSource_next_iff, readAll3_eq_ok]

theorem execFlatten_of_holds {s : State} (a : Map3 Bool 32 4 4) (h : s.fmP2 = written3 a) :
    execFlatten s = .next { s with flat := written1 (flattenMap a), seq := 8 } := execFlatten_next_iff.2 ⟨a, h, rfl⟩

theorem execDense1_next_iff {s t : State} : execDense1 s = .next t ↔
    ∃ a : Fin 512 → Bool, s.flat = written1 a ∧ t = { s with dv1 := written1 (denseMap Config.store.wd1 a), seq := 9 } := by
  simp only [execDense1, dense1With, State.readFlat, onSource_next_iff, readAll1_eq_ok]

theorem execDense1_of_holds {s : State} (a : Fin 512 → Bool) (h : s.flat = written1 a) :
    execDense1 s = .next { s with dv1 := written1 (denseMap Config.store.wd1 a), seq := 9 } := execDense1_next_iff.2 ⟨a, h, rfl⟩

theorem execSign_next_iff {s t : State} : execSign s = .next t ↔
    ∃ a : Fin 256 → Int, s.dv1 = written1 a ∧ t = { s with act1 := written1 (signMap a), seq := 10 } := by
  simp only [execSign, State.readDv1, onSource_next_iff, readAll1_eq_ok]

theorem execSign_of_holds {s : State} (a : Fin 256 → Int) (h : s.dv1 = written1 a) :
    execSign s = .next { s with act1 := written1 (signMap a), seq := 10 } := execSign_next_iff.2 ⟨a, h, rfl⟩

theorem execDense2_next_iff {s t : State} : execDense2 s = .next t ↔
    ∃ a : Fin 256 → Bool, s.act1 = written1 a ∧ t = { s with dv2 := written1 (denseMap Config.store.wd2 a), seq := 11 } := by
  simp only [execDense2, dense2With, State.readAct1, onSource_next_iff, readAll1_eq_ok]

theorem execDense2_of_holds {s : State} (a : Fin 256 → Bool) (h : s.act1 = written1 a) :
    execDense2 s = .next { s with dv2 := written1 (denseMap Config.store.wd2 a), seq := 11 } := execDense2_next_iff.2 ⟨a, h, rfl⟩

theorem execArgmax_next_iff {s t : State} : execArgmax s = .next t ↔
    ∃ v : Fin 10 → Int, s.dv2 = written1 v ∧ t = { s with result := some (classCode (argmaxIndex v)), seq := 12 } := by
  simp only [execArgmax, State.readDv2, onSource_next_iff, readAll1_eq_ok]

theorem execArgmax_of_holds {s : State} (v : Fin 10 → Int) (h : s.dv2 = written1 v) :
    execArgmax s = .next { s with result := some (classCode (argmaxIndex v)), seq := 12 } :=
  execArgmax_next_iff.2 ⟨v, h, rfl⟩

theorem execEmit_next_iff {s t : State} : execEmit s = .next t ↔
    ∃ r : BitVec 4, s.result = some r ∧ t = { s.pushOut (resultWord r) with seq := 0 } := by
  simp only [execEmit, State.readResult, onSource_next_iff, readRegister_eq_ok]

theorem execEmit_of_holds {s : State} (r : BitVec 4) (h : s.result = some r) :
    execEmit s = .next { s.pushOut (resultWord r) with seq := 0 } := execEmit_next_iff.2 ⟨r, h, rfl⟩

/-- `LOAD` always steps: it consumes the oldest word, or holds when there is none. -/
theorem execLoad_next_iff {s t : State} : execLoad s = .next t ↔
    (∃ w rest, s.inQ = w :: rest ∧ t = consumeWord w { s with inQ := rest }) ∨ (s.inQ = [] ∧ t = s) := by
  cases h : s.inQ <;> simp [execLoad, State.popIn, h, eq_comm]

theorem execLoad_cons {s : State} {w : Word} {rest : List Word} (h : s.inQ = w :: rest) :
    execLoad s = .next (consumeWord w { s with inQ := rest }) := execLoad_next_iff.2 (.inl ⟨w, rest, h, rfl⟩)

theorem execLoad_nil {s : State} (h : s.inQ = []) : execLoad s = .next s := execLoad_next_iff.2 (.inr ⟨h, rfl⟩)

end Sys2Proof.Machine
end

