-- ==== Sys2Proof/Laws/Step.lean ====
section
/-! SUPPORT. What a step can be: an operation, selected by its own code, that steps; or the fault of that operation; or the
fault of a code that selects none. -/

namespace Sys2Proof.Machine

theorem eq_encode_of_decodeSeq {code : BitVec 4} {i : Instr} (h : decodeSeq code = some i) : code = encode i := by
  revert code; cases i <;> decide

/-- Every step to a next state is a step of the one operation whose code is in `SEQ`. -/
theorem step_next_cases {s t : State} (h : step s = .next t) : ∃ i, s.seq = encode i ∧ exec i s = .next t := by
  unfold step fetch at h
  split at h
  · next i hi => exact ⟨i, eq_encode_of_decodeSeq hi, h⟩
  · cases h

/-- Every faulting step is a fault of the operation whose code is in `SEQ`, or `BadSeq`. -/
theorem step_fault_cases {s : State} {f : Fault} (h : step s = .fault f) :
    (∃ i, s.seq = encode i ∧ exec i s = .fault f) ∨ (decodeSeq s.seq = none ∧ f = .badSeq s.seq) := by
  unfold step fetch at h
  split at h
  · next i hi => exact .inl ⟨i, eq_encode_of_decodeSeq hi, h⟩
  · next hn => cases h; exact .inr ⟨hn, rfl⟩

end Sys2Proof.Machine
end

