-- ==== Sys2Proof/Laws/Runs.lean ====
section
/-! SUPPORT. What an action does to a run and its history, once per kind of action, and the unfolding of an infinite run. -/

namespace Sys2Proof.Machine

@[simp] theorem Schedule.run_zero (σ : Schedule) (start : Run) : σ.run start 0 = start := rfl

@[simp] theorem Schedule.run_succ (σ : Schedule) (start : Run) (n : Nat) :
    σ.run start (n + 1) = (σ.run start n).act (σ.action n) := rfl

/-- An engine step of an instance without a fault that answers a next state. -/
theorem Run.act_engineStep_next {r : Run} {t : State} (hf : r.inst.faultMark = none) (ht : step r.inst.state = .next t) :
    r.act .engineStep = { r with inst := { state := t, faultMark := none } } := by
  obtain ⟨⟨s, m⟩, p, q⟩ := r
  dsimp only at hf ht
  subst hf
  simp [Run.act, Instance.engineStep, ht]

/-- A pop takes the oldest word to the history of popped words. -/
theorem Run.act_hostPop_cons {r : Run} {w : Word} {rest : List Word} (ho : r.inst.state.outQ = w :: rest) :
    r.act .hostPop = { r with inst := { r.inst with state := { r.inst.state with outQ := rest } }, popped := r.popped ++ [w] } := by
  simp [Run.act, State.hostPop, ho]

/-- With no word to pop the host waits. -/
theorem Run.act_hostPop_nil {r : Run} (ho : r.inst.state.outQ = []) : r.act .hostPop = r := by
  simp [Run.act, State.hostPop, ho]

@[simp] theorem Run.act_hostPush_pushed (r : Run) (w : Word) : (r.act (.hostPush w)).pushed = r.pushed ++ [w] := rfl
@[simp] theorem Run.act_hostPush_popped (r : Run) (w : Word) : (r.act (.hostPush w)).popped = r.popped := rfl
@[simp] theorem Run.act_hostPush_state (r : Run) (w : Word) :
    (r.act (.hostPush w)).inst.state = r.inst.state.hostPush w := rfl
@[simp] theorem Run.act_engineStep_pushed (r : Run) : (r.act .engineStep).pushed = r.pushed := rfl
@[simp] theorem Run.act_engineStep_popped (r : Run) : (r.act .engineStep).popped = r.popped := rfl

/-- An action that is not enabled changes nothing, from a run with a legal code (for an engine step: log 2). -/
theorem Run.act_of_not_enabled {r : Run} {a : Action} (hl : r.inst.state.seq.toNat ≤ 12) (h : r.enabled a = false) :
    r.act a = r := by
  cases a with
  | hostPush w => simp [Run.enabled] at h
  | hostPop => exact Run.act_hostPop_nil (by simpa [Run.enabled] using h)
  | engineStep =>
    cases hf : r.inst.faultMark with
    | some f => simp [Run.act, Instance.engineStep, hf]
    | none =>
      simp only [Run.enabled, hf, Option.isNone_none, Bool.true_and, State.stepEnabled] at h
      split at h
      · next h0 =>
        have hq : r.inst.state.inQ = [] := by simpa using h
        have hs : step r.inst.state = .next r.inst.state := by
          have hd : decodeSeq r.inst.state.seq = some .load := by rw [h0]; rfl
          simp only [step, fetch, hd]
          exact execLoad_nil hq
        rw [Run.act_engineStep_next hf hs, ← hf]
      · simp at h
        omega

end Sys2Proof.Machine
end

