-- ==== Sys2Proof/Tests/Slice0.lean ====
section
/-! SUPPORT. Tests of decoding, well-formedness and single steps, with expected results from spec/95_test_vectors.md (named
in each comment), and the witnesses of the statements' hypotheses. -/

open Sys2Proof Sys2Proof.Machine

namespace Sys2Proof.Tests

/-- A field of the next state, when there is one. -/
def after {α : Type} (o : Host.Outcome State Fault Refusal) (field : State → α) : Option α :=
  match o with
  | .next t => some (field t)
  | .fault _ => none
  | .refused _ => none

/-- The fault, when there is one. -/
def faultOf (o : Host.Outcome State Fault Refusal) : Option Fault :=
  match o with
  | .next _ => none
  | .fault f => some f
  | .refused _ => none

/-- A map with the single 1 at `(c, y, x)`. -/
def oneAt {C H W : Nat} (c y x : Nat) : Map3 Bool C H W := fun c' y' x' => c'.val == c && (y'.val == y && x'.val == x)

/-- The configuration of program P3 of spec/95_test_vectors.md, with `THR_BITS` = 9. -/
def pixelStore : Config.Store 9 where
  w1 := fun _ n r c => n.val == 0 && (r.val == 1 && c.val == 1)
  t1 := fun n => if n.val = 0 then 8#9 else 9#9
  w2 := fun m n r c => if n.val = 7 then m.val == 0 && (r.val == 1 && c.val == 1) else true
  t2 := fun n => if n.val = 7 then 143#9 else 0#9
  wd1 := fun m n =>
    if n.val < 128 then m.val == 199 else if n.val < 254 then true
    else if n.val = 254 then decide (m.val < 256) else decide (m.val < 256) && m.val != 199
  wd2 := fun m n =>
    if n.val = 0 then false else if n.val = 1 then true else if n.val = 2 then decide (m.val < 128)
    else if n.val < 5 then decide (m.val < 128) || m.val == 254 else false

/-! ## Decoding: words written out from 30_encoding.md R100 -/

theorem test_decode_load : decodeTableWord 4 0b0000 = some .load := by decide
theorem test_decode_pad1 : decodeTableWord 4 0b0001 = some .pad1 := by decide
theorem test_decode_conv1 : decodeTableWord 4 0b0010 = some .conv1 := by decide
theorem test_decode_pool1 : decodeTableWord 4 0b0011 = some .pool1 := by decide
theorem test_decode_pad2 : decodeTableWord 4 0b0100 = some .pad2 := by decide
theorem test_decode_conv2 : decodeTableWord 4 0b0101 = some .conv2 := by decide
theorem test_decode_pool2 : decodeTableWord 4 0b0110 = some .pool2 := by decide
theorem test_decode_flatten : decodeTableWord 4 0b0111 = some .flatten := by decide
theorem test_decode_dense1 : decodeTableWord 4 0b1000 = some .dense1 := by decide
theorem test_decode_sign : decodeTableWord 4 0b1001 = some .sign := by decide
theorem test_decode_dense2 : decodeTableWord 4 0b1010 = some .dense2 := by decide
theorem test_decode_argmax : decodeTableWord 4 0b1011 = some .argmax := by decide
theorem test_decode_emit : decodeTableWord 4 0b1100 = some .emit := by decide
theorem test_decode_reserved : decodeTableWord 4 0b1101 = none ∧ decodeTableWord 4 0b1110 = none ∧
    decodeTableWord 4 0b1111 = none := by decide

/-! ## Well-formedness: one ill-formed term for each check -/

/-- Code 13 is no operation (R102). -/
theorem test_wf_reserved_code : seqLegal 13 = false ∧ seqLegal 12 = true := by decide

/-- A row too short, a row too many, a column too long. -/
theorem test_wf_shape2 : Config.hasShape2 2 2 [[true, false], [true]] = false ∧
    Config.hasShape2 2 2 [[true, false], [true, true], [false, false]] = false ∧
    Config.hasShape2 2 2 [[true, false], [true, true]] = true := by decide

theorem test_wf_shape4 : Config.hasShape4 1 1 1 1 [[[[true, true]]]] = false ∧ Config.hasShape4 1 1 1 1 [[[]]] = false ∧
    Config.hasShape4 1 1 1 1 [[], []] = false ∧ Config.hasShape4 1 1 1 1 [[[[true]]]] = true := by decide

/-- With five bits the range is −16 to 15 (R41). -/
theorem test_wf_threshold_range : Config.thresholdFits 5 16 = false ∧ Config.thresholdFits 5 (-17) = false ∧
    Config.thresholdFits 5 15 = true ∧ Config.thresholdFits 5 (-16) = true := by decide

theorem test_wf_threshold_count : Config.thresholdsOk 5 2 [1] = false ∧ Config.thresholdsOk 5 2 [1, 16] = false ∧
    Config.thresholdsOk 5 2 [1, 15] = true := by decide

/-- Well-formed raw tables, all bits 0 and all thresholds 9. -/
def goodRaw : Config.RawStore where
  w1 := List.replicate 1 (List.replicate 16 (List.replicate 3 (List.replicate 3 false)))
  t1 := List.replicate 16 9
  w2 := List.replicate 16 (List.replicate 32 (List.replicate 3 (List.replicate 3 false)))
  t2 := List.replicate 32 9
  wd1 := List.replicate 512 (List.replicate 256 false)
  wd2 := List.replicate 256 (List.replicate 10 false)

/-- Each table check refuses its own ill-formed table. -/
theorem test_wf_tables : ({ goodRaw with w1 := [] } : Config.RawStore).tableOk 5 .w1 = false ∧
    ({ goodRaw with t1 := [9] } : Config.RawStore).tableOk 5 .t1 = false ∧
    ({ goodRaw with w2 := [] } : Config.RawStore).tableOk 5 .w2 = false ∧
    ({ goodRaw with t2 := List.replicate 32 16 } : Config.RawStore).tableOk 5 .t2 = false ∧
    ({ goodRaw with wd1 := [[]] } : Config.RawStore).tableOk 5 .wd1 = false ∧
    ({ goodRaw with wd2 := [[]] } : Config.RawStore).tableOk 5 .wd2 = false := by decide +kernel

/-- The whole check refuses one bad table and a width of 0, and accepts good tables. -/
theorem test_wf_store : goodRaw.wf 5 = true ∧ goodRaw.wf 0 = false ∧
    ({ goodRaw with t2 := List.replicate 32 16 } : Config.RawStore).wf 5 = false := by decide +kernel

/-- The refusal of R242, or none when a store is built. -/
def refusalOf {b : Nat} (e : Except Refusal (Config.Store b)) : Option Refusal :=
  match e with
  | .ok _ => none
  | .error r => some r

/-- The refusal names the first ill-formed table (log 7); a good configuration is not refused. -/
theorem test_loadStore_refusal : refusalOf (loadStore 5 { goodRaw with t2 := List.replicate 32 16 }) =
      some (.configurationError .t2) ∧
    refusalOf (loadStore 0 goodRaw) = some .thrBitsZero ∧ refusalOf (loadStore 5 goodRaw) = none := by decide +kernel

/-! ## Single steps -/

/-- `LOAD` about to consume a word with the given count. -/
def loadState (count : BitVec 3) (w : Word) : State := { State.reset with wcnt := count, inQ := [w] }

/-- V1: word 2 `0x04000000` sets `IMG[0][5][10]`. -/
theorem test_load_pixel : after (exec .load (loadState 2 0x04000000))
    (fun t => (get3 t.img 0 5 10, get3 t.img 0 5 9, t.seq, t.wcnt)) =
    some (some true, some false, 0, 3) := by decide +kernel

/-- V1: word 7 `0x80000000` sets `IMG[0][15][15]`; the counter wraps and `PAD1` is next. -/
theorem test_load_last : after (exec .load (loadState 7 0x80000000)) (fun t => (get3 t.img 0 15 15, t.seq, t.wcnt)) =
    some (some true, 1, 0) := by decide +kernel

def pad1State : State := { State.reset with seq := 1, img := written3 (oneAt 0 5 10) }

/-- V2: a one at `[0][5][10]` moves to `[0][6][11]`, and the old place is 0. -/
theorem test_pad1_offset : after (exec .pad1 pad1State) (fun t => (get3 t.padbuf1 0 6 11, get3 t.padbuf1 0 5 10, t.seq)) =
    some (some true, some false, 2) := by decide +kernel

/-- V2: the border is 0 although the image is all 1. -/
theorem test_pad1_border : after (exec .pad1 { State.reset with img := written3 fun _ _ _ => true })
    (fun t => (get3 t.padbuf1 0 0 0, get3 t.padbuf1 0 17 16, get3 t.padbuf1 0 16 16)) =
    some (some false, some false, some true) := by decide +kernel

def pad2State : State := { State.reset with seq := 4, fmP1 := written3 (oneAt 15 7 7) }

/-- V2: a one at `[15][7][7]` moves to `[15][8][8]`; channel 14 stays 0. -/
theorem test_pad2_offset : after (exec .pad2 pad2State) (fun t => (get3 t.padbuf2 15 8 8, get3 t.padbuf2 14 8 8, t.seq)) =
    some (some true, some false, 5) := by decide +kernel

theorem test_pad2_border : after (exec .pad2 { State.reset with fmP1 := written3 fun _ _ _ => true })
    (fun t => (get3 t.padbuf2 3 9 5, get3 t.padbuf2 3 8 8)) = some (some false, some true) := by decide +kernel

def conv1State : State := { State.reset with seq := 2, padbuf1 := written3 (oneAt 0 6 11) }

/-- P3 step 10: channel 0 is 1 at `(5, 10)` only; its neighbour has vote 5, a far position vote 7, channel 1 vote 7. -/
theorem test_conv1_pixel : after (conv1With pixelStore conv1State)
    (fun t => (get3 t.fmC1 0 5 10, get3 t.fmC1 0 5 11, get3 t.fmC1 0 0 0, get3 t.fmC1 1 5 10, t.seq)) =
    some (some true, some false, some false, some false, 3) := by decide +kernel

/-- V3, E3: an all-zero window and kernel give vote 9, which exceeds 8 and not 9. -/
theorem test_conv1_tie : convMap (M := 1) (N := 2) (O := 1) (fun _ _ _ _ => false) (fun n => if n = 0 then 8 else 9)
    (fun _ _ _ => false) 0 0 0 = true ∧
    convMap (M := 1) (N := 2) (O := 1) (fun _ _ _ _ => false) (fun n => if n = 0 then 8 else 9)
    (fun _ _ _ => false) 1 0 0 = false := by decide +kernel

def conv2State : State := { State.reset with seq := 5, padbuf2 := written3 (oneAt 0 3 6) }

/-- P3 step 13: channel 7 is 1 at `(2, 5)` (vote 144) and 0 at its neighbour (140); channel 0 is 0 (vote −142). -/
theorem test_conv2_pixel : after (conv2With pixelStore conv2State)
    (fun t => (get3 t.fmC2 7 2 5, get3 t.fmC2 7 2 6, get3 t.fmC2 0 2 5, t.seq)) =
    some (some true, some false, some false, 6) := by decide +kernel

/-- V3: an all-zero window against an all-one kernel over sixteen channels votes −144: 1 only below that. -/
theorem test_conv2_vote : vote (M := 16) (O := 1) (fun _ _ _ => false) (fun _ _ _ => true) 0 0 = -144 ∧
    vote (M := 16) (O := 1) (fun _ _ _ => true) (fun _ _ _ => true) 0 0 = 144 := by decide +kernel

def pool1State : State := { State.reset with seq := 3, fmC1 := written3 (oneAt 2 5 10) }

/-- V4: a one at `(5, 10)` pools to `(2, 5)` of the same channel. -/
theorem test_pool1_pixel : after (exec .pool1 pool1State)
    (fun t => (get3 t.fmP1 2 2 5, get3 t.fmP1 2 2 4, get3 t.fmP1 1 2 5, t.seq)) =
    some (some true, some false, some false, 4) := by decide +kernel

/-- E4: each single corner of a window gives 1, none gives 0. -/
theorem test_pool_window : ∀ a b c d : Bool, poolMap (M := 1) (Q := 1)
    (fun _ y x => if y = 0 then (if x = 0 then a else b) else (if x = 0 then c else d)) 0 0 0 =
      (a || b || c || d) := by decide +kernel

def pool2State : State := { State.reset with seq := 6, fmC2 := written3 (oneAt 31 7 0) }

/-- V4: a one at `(7, 0)` pools to `(3, 0)`. -/
theorem test_pool2_pixel : after (exec .pool2 pool2State) (fun t => (get3 t.fmP2 31 3 0, get3 t.fmP2 31 3 1, t.seq)) =
    some (some true, some false, 7) := by decide +kernel

def flattenState : State := { State.reset with seq := 7, fmP2 := written3 (oneAt 7 1 2) }

/-- V5: `(7, 1, 2)` goes to 199, not to 118. -/
theorem test_flatten_199 : after (exec .flatten flattenState) (fun t => (get1 t.flat 199, get1 t.flat 118, t.seq)) =
    some (some true, some false, 8) := by decide +kernel

/-- V5: the sample points of the index map. -/
theorem test_flatten_index : flatIndex 0 0 0 = 0 ∧ flatIndex 31 0 0 = 31 ∧ flatIndex 0 0 1 = 32 ∧ flatIndex 0 1 0 = 128 ∧
    flatIndex 5 2 0 = 261 ∧ flatIndex 0 3 3 = 480 ∧ flatIndex 31 3 3 = 511 := by decide

def dense1State : State := { State.reset with seq := 8, flat := written1 fun i => i.val == 199 }

/-- `DENSE1` writes every element of `DV1` and makes `SIGN` next. -/
theorem test_dense1_writes : after (dense1With pixelStore dense1State) (fun t => ((firstBot1 t.dv1).isNone, t.seq)) =
    some (true, 9) := by decide +kernel

/-- P3 step 16: units 0, 128, 254 and 255 give 512, −510, 2 and 0. -/
theorem test_dense1_map : denseMap pixelStore.wd1 (fun i => i.val == 199) 0 = 512 ∧
    denseMap pixelStore.wd1 (fun i => i.val == 199) 128 = -510 ∧
    denseMap pixelStore.wd1 (fun i => i.val == 199) 254 = 2 ∧
    denseMap pixelStore.wd1 (fun i => i.val == 199) 255 = 0 := by decide +kernel

def signState : State :=
  { State.reset with seq := 9, dv1 := written1 fun i => if i.val = 0 then -1 else if i.val = 1 then 0 else 1 }

/-- E6: −1 and 0 map to 0, 1 maps to 1. -/
theorem test_sign_boundary : after (exec .sign signState)
    (fun t => (get1 t.act1 0, get1 t.act1 1, get1 t.act1 2, t.seq)) =
    some (some false, some false, some true, 10) := by decide +kernel

def dense2State : State :=
  { State.reset with seq := 10, act1 := written1 fun i => decide (i.val < 128) || i.val == 254 }

/-- `DENSE2` writes every element of `DV2` and makes `ARGMAX` next. -/
theorem test_dense2_writes : after (dense2With pixelStore dense2State) (fun t => ((firstBot1 t.dv2).isNone, t.seq)) =
    some (true, 11) := by decide +kernel

/-- P3 step 18: the ten scores. -/
theorem test_dense2_map :
    (List.finRange 10).map (denseMap pixelStore.wd2 fun i => decide (i.val < 128) || i.val == 254) =
      [-2, 2, 254, 256, 256, -2, -2, -2, -2, -2] := by decide +kernel

/-- A score vector written out. -/
def scores (l : List Int) : Fin 10 → Int := fun i => l.getD i.val 0

def argmaxState : State :=
  { State.reset with seq := 11, dv2 := written1 (scores [-2, 2, 254, 256, 256, -2, -2, -2, -2, -2]) }

/-- V8: of the equal maxima at 3 and 4 the first wins. -/
theorem test_argmax_tie : after (exec .argmax argmaxState) (fun t => (t.result, t.seq)) = some (some 3, 12) := by
  decide +kernel

/-- V8: the remaining kinds of vector. -/
theorem test_argmax_vectors : argmaxIndex (scores [5, 5, 3]) = 0 ∧ argmaxIndex (scores [0, 0, 0, 0, 0, 0, 0, 0, 0, 2]) = 9 ∧
    argmaxIndex (scores [0, 2, 4, 6, 8, 10, 12, 14, 16, 18]) = 9 ∧
    argmaxIndex (scores [-4, -2, -2, -6, -2, -8, -10, -12, -14, -16]) = 1 := by decide +kernel

def emitState : State := { State.reset with seq := 12, result := some 9, outQ := [1] }

/-- V9: class 9 is sent as `0x00000009`, after the words already waiting. -/
theorem test_emit_word : after (exec .emit emitState) (fun t => (t.outQ, t.result, t.seq)) = some ([1, 9], some 9, 0) := by
  decide +kernel

/-- R247: code 13 faults. -/
theorem test_step_badSeq : faultOf (step { State.reset with seq := 13 }) = some (.badSeq 13) := by decide +kernel

/-- R246: the fault names the buffer and the index of a `⊥`. -/
theorem test_unwritten_read : faultOf (exec .pad1 State.reset) = some (.unwrittenRead .img [0, 0, 0]) ∧
    faultOf (exec .emit State.reset) = some (.unwrittenRead .result []) := by decide +kernel

/-- A placed word is the one the next step runs (log 8): the successors of R23. -/
theorem test_placed_words : ((List.range 13).map fun w => after (step (State.reset.withFetchWord 4 w)) State.seq) =
    [some 0, some 2, some 3, some 4, some 5, some 6, some 7, some 8, some 9, some 10, some 11, some 12, some 0] := by
  decide +kernel

/-- V1: the words of the single pixel and of row 3. -/
theorem test_pack_pixel : get1 (pack (oneAt 0 5 10)) 2 = 0x04000000 ∧
    get1 (pack fun _ y _ => y.val == 3) 1 = 0xFFFF0000 := by decide +kernel

/-! ## Witnesses: states and operands that meet the statements' hypotheses -/

theorem witness_decodeSeq : decodeSeq emitState.seq = some .emit ∧ decodeSeq State.reset.seq = some .load := by decide

/-- The least and the greatest code that selects nothing, and the greatest that selects something. -/
theorem witness_illegal_code : 12 < ({ State.reset with seq := 13 } : State).seq.toNat ∧
    12 < ({ State.reset with seq := 15 } : State).seq.toNat := by decide

/-- A step from the greatest legal code, which wraps. -/
theorem witness_step_wraps : emitState.seq.toNat ≤ 12 ∧ ∃ t, step emitState = .next t :=
  ⟨by decide, _, show execEmit emitState = _ from execEmit_of_holds 9 rfl⟩

/-- A step of each other case of the successor rule: the eighth word, an earlier word, the hold, and a stage. -/
theorem witness_step_successors : (after (step (loadState 7 0)) State.seq).isSome = true ∧
    (after (step (loadState 6 0)) State.seq).isSome = true ∧ (after (step State.reset) State.seq).isSome = true ∧
    (after (step argmaxState) State.seq).isSome = true := by decide +kernel

/-- A first and a last word waiting. -/
theorem witness_load_word : (loadState 0 5).inQ = [5] ∧ (loadState 0 5).wcnt = 0 ∧ (loadState 7 5).wcnt = 7 ∧
    (loadState 7 5).wcnt ≠ 0 := by decide

/-- Pixel `(15, 15)` is bit 31 of the last word; pixel `(2, 0)` is not in the first word. -/
theorem witness_load_clauses :
    (16 * (15 : Fin 16).val + (15 : Fin 16).val = 32 * (loadState 7 5).wcnt.toNat + (31 : Fin 32).val) ∧
    (16 * (2 : Fin 16).val + (0 : Fin 16).val) / 32 ≠ (loadState 0 5).wcnt.toNat := by decide

theorem witness_input_empty : emitState.inQ = [] := by decide

/-- Sources without `⊥`, and the maps they hold. -/
theorem witness_full_sources : Full3 pad1State.img ∧ Full3 pad2State.fmP1 ∧ Full3 flattenState.fmP2 ∧
    Holds3 conv1State.padbuf1 (oneAt 0 6 11) ∧ Holds3 conv2State.padbuf2 (oneAt 0 3 6) ∧
    Holds3 pool1State.fmC1 (oneAt 2 5 10) ∧ Holds3 pool2State.fmC2 (oneAt 31 7 0) ∧
    Holds1 dense1State.flat (fun i => i.val == 199) ∧
    Holds1 signState.dv1 (fun i => if i.val = 0 then -1 else if i.val = 1 then 0 else 1) ∧
    Holds1 dense2State.act1 (fun i => decide (i.val < 128) || i.val == 254) ∧
    Holds1 argmaxState.dv2 (scores [-2, 2, 254, 256, 256, -2, -2, -2, -2, -2]) ∧ emitState.result = some 9 := by
  refine ⟨?_, ?_, ?_, ?_, ?_, ?_, ?_, ?_, ?_, ?_, ?_, rfl⟩ <;>
    simp [Full3, Holds3, Holds1, pad1State, pad2State, flattenState, conv1State, conv2State, pool1State, pool2State, dense1State,
      signState, dense2State, argmaxState]

/-- Sources with a `⊥`: a wholly unwritten one, and one whose only `⊥` is its last element. -/
theorem witness_unwritten_sources : ¬ Full3 State.reset.img ∧ ¬ Full3 State.reset.fmP1 ∧ ¬ Full3 State.reset.padbuf1 ∧
    ¬ Full3 State.reset.padbuf2 ∧ ¬ Full3 State.reset.fmC1 ∧ ¬ Full3 State.reset.fmC2 ∧ ¬ Full3 State.reset.fmP2 ∧
    ¬ Full1 State.reset.flat ∧ ¬ Full1 State.reset.act1 ∧ ¬ Full1 State.reset.dv1 ∧ ¬ Full1 State.reset.dv2 ∧
    State.reset.result = none ∧
    ¬ Full3 (set3 pad1State.img 0 15 15 none) := by
  refine ⟨fun h => ?_, fun h => ?_, fun h => ?_, fun h => ?_, fun h => ?_, fun h => ?_, fun h => ?_, fun h => ?_,
    fun h => ?_, fun h => ?_, fun h => ?_, rfl, fun h => ?_⟩
  · simpa [State.reset] using h 0 0 0
  · simpa [State.reset] using h 0 0 0
  · simpa [State.reset] using h 0 0 0
  · simpa [State.reset] using h 0 0 0
  · simpa [State.reset] using h 0 0 0
  · simpa [State.reset] using h 0 0 0
  · simpa [State.reset] using h 0 0 0
  · simpa [State.reset] using h 0
  · simpa [State.reset] using h 0
  · simpa [State.reset] using h 0
  · simpa [State.reset] using h 0
  · simpa [get3_set3] using h 0 15 15

/-- The clauses on inner and border positions, at the boundary values where they meet. -/
theorem witness_pad_positions : ((1 : Fin 18).val = (0 : Fin 16).val + 1 ∧ (16 : Fin 18).val = (15 : Fin 16).val + 1) ∧
    ((0 : Fin 18).val = 0 ∧ (17 : Fin 18).val = 17) ∧
    ((1 : Fin 10).val = (0 : Fin 8).val + 1 ∧ (8 : Fin 10).val = (7 : Fin 8).val + 1) ∧
    ((0 : Fin 10).val = 0 ∧ (9 : Fin 10).val = 9) := by decide

/-- The last flat position of the reindexing clause. -/
theorem witness_flat_position : (511 : Fin 512).val = (31 : Fin 32).val + ((3 : Fin 4).val + 4 * (3 : Fin 4).val) * 32 := by
  decide

/-- Every operation other than `LOAD` has a state from which it steps. -/
theorem witness_operations_step : ([.pad1, .conv1, .pool1, .pad2, .conv2, .pool2, .flatten, .dense1, .sign, .dense2, .argmax,
    .emit] : List Instr).all (fun i => (after (exec i (State.reset.withSource i)) State.seq).isSome) = true := by
  decide +kernel

/-- Two different states that agree at the source of `PAD1`, where `PAD1` steps. -/
theorem witness_same_source : pad1State.AgreeAt { pad1State with wcnt := 3, result := some 7, outQ := [2] } Instr.pad1.source ∧
    (∃ t, exec .pad1 pad1State = .next t) ∧ Instr.pad1 ≠ .load ∧ Instr.pad1 ≠ .emit :=
  ⟨rfl, ⟨_, execPad1_of_holds (oneAt 0 5 10) rfl⟩, by decide, by decide⟩

theorem witness_operation_faults : exec .emit State.reset = .fault (.unwrittenRead .result []) := rfl

/-- The state about to load a first word, with leftovers in a buffer and in `RESULT`. -/
def leftoverState : State := { loadState 0 5 with result := some 3, fmC1 := pool1State.fmC1 }

/-- Two states that differ in a buffer, in `RESULT` and nowhere else, about to load a first word. -/
theorem witness_first_load : (loadState 0 5).seq = 0 ∧ leftoverState.seq = 0 ∧
    (loadState 0 5).wcnt = 0 ∧ leftoverState.wcnt = 0 ∧
    (loadState 0 5).inQ = leftoverState.inQ ∧
    (loadState 0 5).inQ ≠ [] ∧
    (loadState 0 5).outQ = leftoverState.outQ := by
  refine ⟨rfl, rfl, rfl, rfl, rfl, by decide, rfl⟩

/-- The invariant holds at the greatest code, with the result defined. -/
theorem witness_ready_emit : emitState.Ready := by
  constructor <;> simp [emitState, encode, State.reset]

/-- The invariant holds at the first stage, with a complete image. -/
theorem witness_ready_pad1 : pad1State.Ready ∧ pad1State.seq ≠ 0 := by
  refine ⟨?_, by decide⟩
  constructor <;> simp [pad1State, encode, State.reset, Full3]

/-- The invariant holds in the middle of an image, with the pixels of the consumed words defined. -/
theorem witness_ready_loading : ({ pad1State with seq := 0, wcnt := 7, inQ := [5] } : State).Ready := by
  constructor <;> simp [pad1State, encode, State.reset]

/-- The values of `DV1`, `DV2`, `RESULT` and `OUT_Q` at the ends of their ranges. -/
def rangeState : State :=
  { emitState with dv1 := written1 fun i => if i.val = 0 then -512 else 512,
                   dv2 := written1 fun i => if i.val = 0 then -256 else 256, outQ := [9] }

/-- The ranges hold, at their ends, in a state from which a step is taken. -/
theorem witness_inRange : rangeState.InRange ∧ ∃ t, step rangeState = .next t := by
  refine ⟨⟨?_, ?_, ?_, ?_⟩, _, show execEmit rangeState = _ from execEmit_of_holds 9 rfl⟩
  · intro i v h
    simp only [rangeState, get1_written1, Option.some.injEq] at h
    split at h <;> omega
  · intro i v h
    simp only [rangeState, get1_written1, Option.some.injEq] at h
    split at h <;> omega
  · intro r h
    cases h
    decide
  · intro w h
    cases List.mem_singleton.1 h
    decide

/-- Waiting for the last word of an image. -/
def waitingState : State := { pad1State with seq := 0, wcnt := 7 }

/-- A quiescent state with the invariant, in which the step changes nothing, and one that is not quiescent. -/
theorem witness_quiescent : waitingState.Ready ∧ waitingState.quiescent = true ∧
    step waitingState = .next waitingState ∧ waitingState.stepEnabled = false ∧ emitState.quiescent = false := by
  refine ⟨?_, by decide, show execLoad waitingState = _ from execLoad_nil rfl, by decide, by decide⟩
  constructor <;> simp [waitingState, pad1State, encode]

/-- The three threshold cases, each at its boundary. -/
theorem witness_thresholds : (9 * ((1 : Nat) : Int) ≤ (fun _ : Fin 1 => (9 : Int)) 0) ∧
    ((fun _ : Fin 1 => (-10 : Int)) 0 < -(9 * ((1 : Nat) : Int))) ∧
    ((fun _ : Fin 1 => (-9 : Int)) 0 = -(9 * ((1 : Nat) : Int))) := by decide

/-- The tie of V3: the votes of `CONV1` are odd, the threshold 9 has their parity, and the vote 9 separates 8 from 9. -/
theorem witness_neighbouring_thresholds : ((9 : Int) % 2 = (9 * (1 : Nat) : Int) % 2) ∧ (10 : Int) = 9 + 1 ∧
    vote (M := 1) (O := 1) (fun _ _ _ => false) (fun _ _ _ => false) 0 0 = 8 + 1 := by decide +kernel

/-- The two dense sizes, with outputs at both ends of their ranges. -/
theorem witness_dense_sizes : denseMap (M := 512) (N := 1) (fun _ _ => false) (fun _ => false) 0 = 512 ∧
    denseMap (M := 512) (N := 1) (fun _ _ => true) (fun _ => false) 0 = -512 ∧
    denseMap (M := 256) (N := 1) (fun _ _ => false) (fun _ => false) 0 = 256 ∧
    denseMap (M := 256) (N := 1) (fun _ _ => true) (fun _ => false) 0 = -256 := by decide +kernel

/-- A map below another, different map, with a window that pools to 1. -/
theorem witness_monotone : (∀ m Y X, oneAt (C := 1) (H := 2) (W := 2) 0 1 1 m Y X = true →
      (fun _ _ _ => true : Map3 Bool 1 2 2) m Y X = true) ∧
    poolMap (Q := 1) (oneAt (C := 1) (H := 2) (W := 2) 0 1 1) 0 0 0 = true := by decide +kernel

/-- Adding a constant and doubling are strictly increasing. -/
theorem witness_increasing : (∀ p q : Int, p < q → p + 7 < q + 7) ∧ ∀ p q : Int, p < q → 2 * p < 2 * q := by
  constructor <;> intros <;> omega

theorem witness_flatIndex_equal : flatIndex 31 3 3 = flatIndex 31 3 3 ∧ flatIndex 7 1 2 ≠ flatIndex 7 2 1 := by decide

/-- The first and the last row of the first and the last word. -/
theorem witness_rows : (0 : Fin 16).val = 2 * (0 : Fin 8).val ∧ (15 : Fin 16).val = 2 * (7 : Fin 8).val + 1 := by decide

/-- Raw tables that give a store, and raw tables that are refused. -/
theorem witness_stores : (∃ cfg, loadStore 5 goodRaw = .ok cfg) ∧
    loadStore 5 { goodRaw with t1 := [9] } = .error (.configurationError .t1) := by
  have h1 : Config.Table.all.find? (fun t => !goodRaw.tableOk 5 t) = none := by decide +kernel
  have h2 : Config.Table.all.find? (fun t => !({ goodRaw with t1 := [9] } : Config.RawStore).tableOk 5 t) = some .t1 := by
    decide +kernel
  exact ⟨⟨_, by rw [loadStore, if_neg (by decide), h1]⟩, by rw [loadStore, if_neg (by decide), h2]⟩

/-- `PAD1` next, with a complete image. -/
theorem witness_complete_image : pad1State.seq = 1 ∧ Holds3 pad1State.img (oneAt 0 5 10) :=
  ⟨rfl, fun c y x => by simp [pad1State]⟩

/-- Eight words and one more waiting, in a state whose buffers hold leftovers. -/
theorem witness_eight_words : (let s : State := { pool1State with seq := 0, result := some 3, inQ := [1, 2, 3, 4, 5, 6, 7, 8, 9] }
    s.seq = 0 ∧ s.wcnt = 0 ∧ s.inQ = (#v[1, 2, 3, 4, 5, 6, 7, 8] : Vector Word 8).toList ++ [9]) := by
  refine ⟨rfl, rfl, rfl⟩

/-- Twelve steps are enough for the state at `PAD1`. -/
theorem witness_remainingWork : pad1State.Ready ∧ pad1State.remainingWork ≤ 12 := ⟨witness_ready_pad1.1, by decide⟩

/-- A run with one word pushed and nothing computed is explained by an empty history. -/
theorem witness_consistent : (Run.reset.act (.hostPush 5)).Consistent := by
  refine ⟨[], [], rfl, by decide, rfl, rfl, rfl, fun _ => ⟨rfl, fun y x h => ?_⟩, fun h => absurd rfl h⟩
  exact absurd h (by simp [Run.act, Run.reset, State.hostPush, State.reset])

/-- A run that has consumed one word and is quiescent, and a bound on the work of a run that has not. -/
theorem witness_quiescent_run : (Run.reset.acts [.hostPush 5, .engineStep]).inst.state.quiescent = true ∧
    (Run.reset.acts [.hostPush 5, .engineStep]).pushed.length % 8 = 1 ∧
    (Run.reset.acts [.hostPush 5]).inst.state.remainingWork ≤ 13 := by decide +kernel

/-- Pixel `(1, 15)` is the last of an incomplete image of one word. -/
theorem witness_incomplete_image : 16 * (1 : Fin 16).val + (15 : Fin 16).val <
    32 * ((Run.reset.acts [.hostPush 5, .engineStep]).pushed.length % 8) := by decide +kernel

/-- A cleanly quiescent run whose buffers and `RESULT` hold leftovers, with nothing to pop. -/
theorem witness_cleanly_quiescent : (let r : Run :=
      { Run.reset with inst := { state := { pool1State with seq := 0, result := some 3 }, faultMark := none } }
    r.inst.faultMark = none ∧ r.inst.state.cleanlyQuiescent = true ∧ r.inst.state.outQ = []) := by
  refine ⟨rfl, rfl, rfl⟩

/-- Engine steps and pops by turns for ever, by a host that always intends to pop and nothing else. -/
def turns : Schedule where
  action n := if n % 2 = 0 then .engineStep else .hostPop
  intends _ a := a = .hostPop

/-- The turns are weakly fair, the host does its duty, and the run they start from is explained by its history. -/
theorem witness_fair_run : (Run.reset.act (.hostPush 5)).Consistent ∧ turns.Fair (Run.reset.act (.hostPush 5)) ∧
    turns.HostReceives (Run.reset.act (.hostPush 5)) := by
  refine ⟨witness_consistent, fun a n h => ?_, fun _ _ => rfl⟩
  cases a with
  | engineStep => exact ⟨2 * n, by omega, if_pos (by omega)⟩
  | hostPop => exact ⟨2 * n + 1, by omega, if_neg (by omega)⟩
  | hostPush w => exact absurd (h n le_rfl).2 (by simp [Schedule.wants, turns])

/-- A disabled engine step, a disabled pop, and an enabled action of each kind. -/
theorem test_enabled_actions : Run.reset.enabled .engineStep = false ∧ Run.reset.enabled .hostPop = false ∧
    Run.reset.enabled (.hostPush 5) = true ∧ (Run.reset.act (.hostPush 5)).enabled .engineStep = true := by decide

/-- A word to pop, and an output stream with none. -/
theorem witness_pop : emitState.outQ = [1] ∧ State.reset.outQ = [] ∧
    emitState.hostPop = some (1, { emitState with outQ := [] }) := ⟨rfl, rfl, rfl⟩

/-- An enabled step of `EMIT` and of `LOAD`. -/
theorem witness_enabled : emitState.stepEnabled = true ∧ (∃ t, step emitState = .next t) ∧
    (loadState 0 5).stepEnabled = true ∧ ∃ t, step (loadState 0 5) = .next t :=
  ⟨by decide, ⟨_, show execEmit emitState = _ from execEmit_of_holds 9 rfl⟩, by decide,
    ⟨_, show execLoad (loadState 0 5) = _ from execLoad_cons (w := 5) (rest := []) rfl⟩⟩

/-- A faulting step, and a run marked with its fault. -/
theorem witness_fault_mark : step { State.reset with seq := 13 } = .fault (.badSeq 13) ∧
    ({ Run.reset with inst := { state := State.reset, faultMark := some (.badSeq 13) } } : Run).inst.faultMark =
      some (.badSeq 13) := ⟨rfl, rfl⟩

end Sys2Proof.Tests
end

section
/-! SUPPORT. What an operation can do to the fields of the state, the ranges of the values the stages store, and the
construction of the constant store; the statements of 10_state.md settled from these. -/

namespace Sys2Proof.Machine

/-! ## Operations, their codes and their frame -/

theorem decodeSeq_encode (i : Instr) : decodeSeq (encode i) = some i := by
  cases i <;> rfl

theorem step_of_seq_eq_encode {s : State} {i : Instr} (h : s.seq = encode i) : step s = exec i s := by
  simp only [step, fetch, h, decodeSeq_encode]

theorem encode_eq_zero_iff {i : Instr} : encode i = 0 ↔ i = .load := by
  cases i <;> decide

/-- The successor of the code of an operation other than `LOAD` (R23). -/
def seqAfter (code : BitVec 4) : BitVec 4 := if code = 12 then 0 else code + 1

/-- Every operation but `LOAD` reads its source and then changes its one destination, and `SEQ` to the successor of its own
code (R23, R61). -/
theorem exec_eq_onSource {i : Instr} (s : State) (hi : i ≠ .load) :
    ∃ (α : Type) (source : Except Fault α) (k : α → State), exec i s = onSource source k ∧
      ∀ v, s.SameBut i.dest (k v) ∧ (k v).seq = seqAfter (encode i) := by
  cases i with
  | load => exact absurd rfl hi
  | _ => exact ⟨_, _, _, rfl, fun _ => ⟨by constructor <;> simp [Instr.dest], rfl⟩⟩

theorem exec_next_of_ne_load {i : Instr} {s t : State} (hi : i ≠ .load) (h : exec i s = .next t) :
    s.SameBut i.dest t ∧ t.seq = seqAfter (encode i) := by
  obtain ⟨_, _, _, he, hk⟩ := exec_eq_onSource s hi
  obtain ⟨v, -, rfl⟩ := onSource_next_iff.1 (he ▸ h)
  exact hk v

/-! ## The ranges of the stored values -/

theorem accum_le {M : Nat} (input column : Fin M → Bool) : accum input column ≤ M := by
  simpa [accum] using Finset.sum_le_card_nsmul Finset.univ _ 1 fun m _ => xnor_le_one (input m) (column m)

/-- A dense product over `M` positions lies between `-M` and `M` and has the parity of `M` (R186). -/
theorem denseMap_range {M N : Nat} (weights : Fin M → Fin N → Bool) (input : Fin M → Bool) (n : Fin N) :
    -(M : Int) ≤ denseMap weights input n ∧ denseMap weights input n ≤ M ∧ denseMap weights input n % 2 = (M : Int) % 2 := by
  have h := accum_le input fun m => weights m n
  simp only [denseMap]
  omega

/-- Only `DV1`, `DV2`, `RESULT` and `OUT_Q` carry a range. -/
theorem State.InRange.of_unchanged {s t : State} (hs : s.InRange) (hdv1 : t.dv1 = s.dv1) (hdv2 : t.dv2 = s.dv2)
    (hresult : t.result = s.result) (houtQ : t.outQ = s.outQ) : t.InRange :=
  ⟨hdv1 ▸ hs.dv1, hdv2 ▸ hs.dv2, hresult ▸ hs.result, houtQ ▸ hs.outQ⟩

/-- Consuming a word leaves the values with a range as they are or makes them `⊥`. -/
theorem consumeWord_inRange {s : State} (w : Word) (hs : s.InRange) : (consumeWord w s).InRange := by
  by_cases h0 : s.wcnt = 0
  · exact ⟨by simp [consumeWord_dv1, h0], by simp [consumeWord_dv2, h0], by simp [consumeWord_result, h0],
      consumeWord_outQ w s ▸ hs.outQ⟩
  · exact hs.of_unchanged ((consumeWord_dv1 w s).trans (if_neg h0)) ((consumeWord_dv2 w s).trans (if_neg h0))
      ((consumeWord_result w s).trans (if_neg h0)) (consumeWord_outQ w s)

theorem execLoad_inRange {s t : State} (hs : s.InRange) (h : execLoad s = .next t) : t.InRange := by
  obtain ⟨w, _, -, rfl⟩ | ⟨-, rfl⟩ := execLoad_next_iff.1 h
  · exact consumeWord_inRange w (hs.of_unchanged rfl rfl rfl rfl)
  · exact hs

theorem execDense1_inRange {s t : State} (hs : s.InRange) (h : execDense1 s = .next t) : t.InRange := by
  obtain ⟨a, -, rfl⟩ := execDense1_next_iff.1 h
  refine ⟨fun i v hv => ?_, hs.dv2, hs.result, hs.outQ⟩
  have hr := denseMap_range Config.store.wd1 a i
  simp only [get1_written1, Option.some.injEq] at hv
  omega

theorem execDense2_inRange {s t : State} (hs : s.InRange) (h : execDense2 s = .next t) : t.InRange := by
  obtain ⟨a, -, rfl⟩ := execDense2_next_iff.1 h
  refine ⟨hs.dv1, fun i v hv => ?_, hs.result, hs.outQ⟩
  have hr := denseMap_range Config.store.wd2 a i
  simp only [get1_written1, Option.some.injEq] at hv
  omega

theorem execArgmax_inRange {s t : State} (hs : s.InRange) (h : execArgmax s = .next t) : t.InRange := by
  obtain ⟨v, -, rfl⟩ := execArgmax_next_iff.1 h
  refine ⟨hs.dv1, hs.dv2, fun r hr => ?_, hs.outQ⟩
  cases hr
  rw [classCode_toNat]
  omega

theorem execEmit_inRange {s t : State} (hs : s.InRange) (h : execEmit s = .next t) : t.InRange := by
  obtain ⟨r, hr, rfl⟩ := execEmit_next_iff.1 h
  refine ⟨hs.dv1, hs.dv2, hs.result, fun w hw => ?_⟩
  obtain hw | rfl : w ∈ s.outQ ∨ w = resultWord r := by simpa using hw
  · exact hs.outQ w hw
  · rw [resultWord_toNat]
    exact hs.result r hr

/-- The four operations whose destination carries a range, and `LOAD`, have lemmas of their own; the others do not touch a
place with a range. -/
theorem exec_inRange {i : Instr} {s t : State} (hs : s.InRange) (h : exec i s = .next t) : t.InRange := by
  cases i with
  | load => exact execLoad_inRange hs h
  | dense1 => exact execDense1_inRange hs h
  | dense2 => exact execDense2_inRange hs h
  | argmax => exact execArgmax_inRange hs h
  | emit => exact execEmit_inRange hs h
  | _ =>
    have hf := (exec_next_of_ne_load (by decide) h).1
    exact hs.of_unchanged (hf.dv1 (by decide)) (hf.dv2 (by decide)) (hf.result (by decide)) (hf.outQ (by decide))

/-! ## The sequencer -/

/-- `LOAD` moves on exactly with the eighth word. -/
theorem execLoad_next_seq {s t : State} (h : execLoad s = .next t) :
    t.seq = if s.inQ ≠ [] ∧ s.wcnt = 7 then 1 else s.seq := by
  obtain ⟨w, rest, hq, rfl⟩ | ⟨hq, rfl⟩ := execLoad_next_iff.1 h
  · simp [consumeWord_seq, hq]
  · simp [hq]

/-! ## The first word of an image -/

/-- What invalidation keeps is `SEQ`, `WCNT` and the two streams. -/
theorem State.invalidate_congr {s s' : State} (hseq : s.seq = s'.seq) (hwcnt : s.wcnt = s'.wcnt) (hinQ : s.inQ = s'.inQ)
    (houtQ : s.outQ = s'.outQ) : s.invalidate = s'.invalidate := by
  simp only [State.invalidate, hseq, hwcnt, hinQ, houtQ]

/-- The first word of an image is consumed from the invalidated state (R39). -/
theorem consumeWord_first (w : Word) {s : State} (h : s.wcnt = 0) : consumeWord w s = consumeWord w s.invalidate := by
  simp only [consumeWord, State.invalidate_wcnt, h, if_true]
  rfl

/-! ## The constant store -/

/-- A two's complement number of `b` bits lies in the range R41 gives a threshold. -/
theorem toInt_fits {b : Nat} (x : BitVec b) : -(2 ^ (b - 1) : Int) ≤ x.toInt ∧ x.toInt ≤ 2 ^ (b - 1) - 1 :=
  ⟨x.le_toInt, Int.le_sub_one_of_lt x.toInt_lt⟩

/-- A table of the shape `[a][b]` has an element at every index inside the shape, the one the store takes. -/
theorem getElem?_bind_of_hasShape2 {a b : Nat} {t : List (List Bool)} (h : Config.hasShape2 a b t = true) (m : Fin a) (n : Fin b) :
    (t[m.val]?.bind (·[n.val]?)) = some (rawBit2 t m n) := by
  simp only [Config.hasShape2, Bool.and_eq_true, beq_iff_eq, List.all_eq_true] at h
  obtain ⟨hlen, hrow⟩ := h
  have hm : m.val < t.length := by omega
  have hn : n.val < t[m.val].length := by have := hrow _ (List.getElem_mem hm); omega
  simp [rawBit2, hm, hn]

theorem getElem?_bind_of_hasShape4 {a b c d : Nat} {t : List (List (List (List Bool)))}
    (h : Config.hasShape4 a b c d t = true) (m : Fin a) (n : Fin b) (y : Fin c) (x : Fin d) :
    (((t[m.val]?.bind (·[n.val]?)).bind (·[y.val]?)).bind (·[x.val]?)) = some (rawBit4 t m n y x) := by
  simp only [Config.hasShape4, Bool.and_eq_true, beq_iff_eq, List.all_eq_true] at h
  obtain ⟨hlen, hplane⟩ := h
  have hm : m.val < t.length := by omega
  obtain ⟨hlen', hkernel⟩ := hplane _ (List.getElem_mem hm)
  have hn : n.val < t[m.val].length := by omega
  simpa [rawBit4, hm, hn] using getElem?_bind_of_hasShape2 (hkernel _ (List.getElem_mem hn)) y x

/-- A threshold in range is stored unchanged (R41, R98). -/
theorem getElem?_of_thresholdsOk {b k : Nat} {t : List Int} (hb : 0 < b) (h : Config.thresholdsOk b k t = true) (n : Fin k) :
    t[n.val]? = some (BitVec.ofInt b (t.getD n 0)).toInt := by
  simp only [Config.thresholdsOk, Config.thresholdFits, Bool.and_eq_true, beq_iff_eq, List.all_eq_true, decide_eq_true_eq] at h
  obtain ⟨hlen, hfits⟩ := h
  have hn : n.val < t.length := by omega
  obtain ⟨hlow, hhigh⟩ := hfits _ (List.getElem_mem hn)
  rw [List.getD_eq_getElem _ _ hn, BitVec.toInt_ofInt_eq_self hb hlow (by omega), List.getElem?_eq_getElem hn]

theorem rawStore_wf_iff {b : Nat} {raw : Config.RawStore} : raw.wf b = true ↔ 1 ≤ b ∧ ∀ t, raw.tableOk b t = true := by
  have hall : ∀ t, t ∈ Config.Table.all := fun t => by cases t <;> decide
  simp [Config.RawStore.wf, hall]

/-- The store with the elements of raw tables at the same indices. -/
def storeOf (b : Nat) (raw : Config.RawStore) : Config.Store b where
  w1 m n r c := rawBit4 raw.w1 m n r c
  t1 n := BitVec.ofInt b (raw.t1.getD n 0)
  w2 m n r c := rawBit4 raw.w2 m n r c
  t2 n := BitVec.ofInt b (raw.t2.getD n 0)
  wd1 m n := rawBit2 raw.wd1 m n
  wd2 m n := rawBit2 raw.wd2 m n

/-- What building a store can answer: a refusal of the width 0, a refusal that names an ill-formed table, or the store of the
raw tables when they are well formed (R242). -/
theorem loadStore_cases (b : Nat) (raw : Config.RawStore) :
    (b = 0 ∧ loadStore b raw = .error .thrBitsZero) ∨
    (∃ t, raw.tableOk b t = false ∧ loadStore b raw = .error (.configurationError t)) ∨
    (raw.wf b = true ∧ loadStore b raw = .ok (storeOf b raw)) := by
  by_cases hb : b = 0
  · exact .inl ⟨hb, by rw [loadStore, if_pos hb]⟩
  cases hfind : Config.Table.all.find? (fun t => !raw.tableOk b t) with
  | some t =>
    exact .inr (.inl ⟨t, by simpa using List.find?_some hfind, by simp only [loadStore, if_neg hb, hfind]⟩)
  | none =>
    have hok : Config.Table.all.all (raw.tableOk b) = true := by simpa [List.find?_eq_none] using hfind
    refine .inr (.inr ⟨?_, by simp only [loadStore, if_neg hb, hfind]; rfl⟩)
    simp [Config.RawStore.wf, hok, Nat.one_le_iff_ne_zero, hb]

theorem loadStore_eq_ok_iff {b : Nat} {raw : Config.RawStore} {cfg : Config.Store b} :
    loadStore b raw = .ok cfg ↔ raw.wf b = true ∧ cfg = storeOf b raw := by
  obtain ⟨rfl, he⟩ | ⟨t, ht, he⟩ | ⟨hwf, he⟩ := loadStore_cases b raw
  · simp [he, rawStore_wf_iff]
  · have : ¬ ∀ t, raw.tableOk b t = true := fun hall => by simp [hall t] at ht
    simp [he, rawStore_wf_iff, this]
  · simp [he, hwf, eq_comm]

/-- A refusal that names a table names an ill-formed one. -/
theorem loadStore_configurationError {b : Nat} {raw : Config.RawStore} {t : Config.Table}
    (h : loadStore b raw = .error (.configurationError t)) : raw.tableOk b t = false := by
  obtain ⟨-, he⟩ | ⟨t', ht', he⟩ | ⟨-, he⟩ := loadStore_cases b raw <;> rw [he] at h
  · cases h
  · cases h
    exact ht'
  · cases h

/-! ## The statements settled -/

/-- Settles O29: the step is one operation, and every operation keeps the ranges. -/
theorem stepsKeepRanges : Obligations.StepsKeepRanges := by
  intro s t hs h
  obtain ⟨_, -, he⟩ := step_next_cases h
  exact exec_inRange hs he

/-- Settles O5: at code 0 by what `LOAD` does to `SEQ`, at any other code by what every other operation does to it. -/
theorem sequencerSuccessor : Obligations.SequencerSuccessor := by
  intro s t h
  obtain ⟨i, hseq, he⟩ := step_next_cases h
  by_cases hi : i = .load
  · subst hi
    have h0 : s.seq = 0 := hseq
    rw [execLoad_next_seq he, if_pos h0, h0]
  · have h0 : s.seq ≠ 0 := by rwa [hseq, ne_eq, encode_eq_zero_iff]
    rw [(exec_next_of_ne_load hi he).2, if_neg h0, hseq, seqAfter]

/-- Settles O24: the frame part of what an operation other than `LOAD` does. -/
theorem operationsChangeOnlyTheirDestination : Obligations.OperationsChangeOnlyTheirDestination :=
  fun _ _ _ hi h => (exec_next_of_ne_load hi h).1

/-- Settles O27: both states consume the same word from the same invalidated state. -/
theorem firstLoadErasesThePast : Obligations.FirstLoadErasesThePast := by
  intro s s' hs hs' hw hw' hq hne ho
  obtain ⟨w, rest, hcons⟩ := List.exists_cons_of_ne_nil hne
  have hstep : step s = .next (consumeWord w { s with inQ := rest }) :=
    (step_of_seq_eq_encode (i := .load) hs).trans (execLoad_cons hcons)
  have hstep' : step s' = .next (consumeWord w { s' with inQ := rest }) :=
    (step_of_seq_eq_encode (i := .load) hs').trans (execLoad_cons (hq ▸ hcons))
  refine ⟨_, hstep, hstep'.trans (congrArg _ ?_)⟩
  rw [consumeWord_first w (s := { s with inQ := rest }) hw, consumeWord_first w (s := { s' with inQ := rest }) hw']
  exact congrArg _ (State.invalidate_congr (hs'.trans hs.symm) (hw'.trans hw.symm) rfl ho.symm)

/-- Settles O47: by what building a store can answer, and the elements of each table by the shape it was checked for. -/
theorem storesAreBuiltFromWellFormedTables : Obligations.StoresAreBuiltFromWellFormedTables := by
  intro b raw
  refine ⟨by simp [loadStore_eq_ok_iff], fun _ => loadStore_configurationError, fun cfg h => ?_⟩
  obtain ⟨hwf, rfl⟩ := loadStore_eq_ok_iff.1 h
  obtain ⟨hb, hok⟩ := rawStore_wf_iff.1 hwf
  exact ⟨getElem?_bind_of_hasShape4 (hok .w1), getElem?_of_thresholdsOk hb (hok .t1),
    getElem?_bind_of_hasShape4 (hok .w2), getElem?_of_thresholdsOk hb (hok .t2),
    getElem?_bind_of_hasShape2 (hok .wd1), getElem?_bind_of_hasShape2 (hok .wd2)⟩

/-- Settles O6: every buffer is the unwritten one, the rest by the definition of the reset state. -/
theorem resetLeavesTheSpecsState : Obligations.ResetLeavesTheSpecsState := by
  refine ⟨rfl, rfl, rfl, rfl, ?_, ?_, ?_, ?_, ?_, ?_, ?_, ?_, ?_, ?_, ?_, rfl, rfl, rfl, rfl⟩
  all_goals simp [State.reset]

/-- Settles O8: after reset nothing is written and `OUT_Q` is empty. -/
theorem resetIsInRange : Obligations.ResetIsInRange := by
  constructor <;> simp [State.reset]

/-- Settles O46: a stored threshold is a number of `THR_BITS` bits. -/
theorem thresholdsAreInRange : Obligations.ThresholdsAreInRange :=
  ⟨Nat.le_add_left 1 _, fun _ => toInt_fits _, fun _ => toInt_fits _⟩

end Sys2Proof.Machine
end

section
/-! SUPPORT. How an operation's step depends on the state before it: a stage on its one source, and every enabled step on
the two streams only as a queue that it takes from at the front or appends to at the end; the statements of 20_memory.md
settled from these. -/

namespace Sys2Proof.Machine

/-! ## One source, one destination -/

/-- The operation `i` is a read followed by a write (R61): the read sees only the operation's source; the write makes a
stage's destination out of the value read, and touches the streams at most by appending to `OUT_Q`. -/
structure Instr.ReadsThenWrites (i : Instr) {α : Type} (read : State → Except Fault α) (write : α → State → State) : Prop where
  exec_eq : ∀ s, exec i s = onSource (read s) fun v => write v s
  read_eq : ∀ s s' : State, s.AgreeAt s' i.source → read s = read s'
  write_dest : i ≠ .emit → ∀ v s s', (write v s).AgreeAt (write v s') i.dest
  write_streams : ∀ v, ∃ emitted, ∀ (s : State) (q o : List Word),
    write v { s with inQ := q, outQ := o } = { write v s with inQ := q, outQ := o ++ emitted }

/-- Every operation but `LOAD` is one: `EMIT` appends its result word, and a stage appends nothing. -/
theorem exists_readsThenWrites {i : Instr} (hi : i ≠ .load) :
    ∃ (α : Type) (read : State → Except Fault α) (write : α → State → State), Instr.ReadsThenWrites i read write := by
  cases i with
  | load => exact absurd rfl hi
  | emit =>
    exact ⟨_, _, _, fun _ => rfl, fun _ _ h => congrArg (readRegister .result) h, fun h => absurd rfl h,
      fun r => ⟨[resultWord r], fun _ _ _ => rfl⟩⟩
  | _ =>
    exact ⟨_, _, _, fun _ => rfl, by rintro ⟨⟩ ⟨⟩ ⟨⟩; rfl, fun _ _ _ _ => rfl,
      fun _ => ⟨[], fun _ _ o => by simp only [List.append_nil]⟩⟩

/-! ## The streams -/

/-- Only `LOAD` has a stream for its source. -/
theorem State.agreeAt_source_of_ne_load {i : Instr} (s : State) (hi : i ≠ .load) (q o : List Word) :
    s.AgreeAt { s with inQ := q, outQ := o } i.source := by
  cases i with
  | load => exact absurd rfl hi
  | _ => rfl

/-- An operation but `LOAD` does the same whatever the streams hold, and appends the same words to `OUT_Q`. -/
theorem exec_streams_of_ne_load {i : Instr} {s t : State} (hi : i ≠ .load) (h : exec i s = .next t) :
    ∃ emitted, ∀ q o, exec i { s with inQ := q, outQ := o } = .next { t with inQ := q, outQ := o ++ emitted } := by
  obtain ⟨_, read, write, hrw⟩ := exists_readsThenWrites hi
  obtain ⟨v, hv, rfl⟩ := onSource_next_iff.1 (hrw.exec_eq s ▸ h)
  obtain ⟨emitted, hw⟩ := hrw.write_streams v
  refine ⟨emitted, fun q o => ?_⟩
  rw [hrw.exec_eq, ← hrw.read_eq s _ (s.agreeAt_source_of_ne_load hi q o), hv, onSource_ok, hw]

/-- R72: an enabled step takes the words `consumed` from the front of `IN_Q` and appends `emitted` to `OUT_Q`, and does the same to every
other state of the streams in which the same words wait there. -/
theorem step_streams {s t : State} (hen : s.stepEnabled = true) (h : step s = .next t) :
    ∃ consumed emitted, s.inQ = consumed ++ t.inQ ∧ t.outQ = s.outQ ++ emitted ∧
      ∀ q o, step { s with inQ := consumed ++ q, outQ := o } = .next { t with inQ := q, outQ := o ++ emitted } := by
  obtain ⟨i, hseq, he⟩ := step_next_cases h
  have hstep : ∀ q o, step { s with inQ := q, outQ := o } = exec i { s with inQ := q, outQ := o } :=
    fun _ _ => step_of_seq_eq_encode hseq
  by_cases hi : i = .load
  · subst hi
    obtain ⟨w, rest, hq, rfl⟩ | ⟨hq, -⟩ := execLoad_next_iff.1 he
    · refine ⟨[w], [], by simp [hq], by simp, fun q o => ?_⟩
      rw [hstep, List.append_nil]
      have hload := execLoad_cons (s := { s with inQ := w :: q, outQ := o }) rfl
      exact hload.trans (congrArg _ (consumeWord_streams w { s with inQ := rest } q o))
    · have h0 : s.seq = 0 := hseq
      simp [State.stepEnabled, h0, hq] at hen
  · obtain ⟨emitted, hx⟩ := exec_streams_of_ne_load hi he
    have ht : t = { t with inQ := s.inQ, outQ := s.outQ ++ emitted } := by
      simpa using he.symm.trans (hx s.inQ s.outQ)
    exact ⟨[], emitted, (congrArg State.inQ ht).symm, congrArg State.outQ ht, fun q o => (hstep q o).trans (hx q o)⟩

theorem State.hostPop_eq_some_iff {s s' : State} {w : Word} :
    s.hostPop = some (w, s') ↔ ∃ rest, s.outQ = w :: rest ∧ s' = { s with outQ := rest } := by
  cases h : s.outQ <;> simp [State.hostPop, h, eq_comm]

/-! ## The statements settled -/

/-- Settles O25: both states give the operation the same read, and its write makes one destination out of that. -/
theorem stagesReadOnlyTheirSource : Obligations.StagesReadOnlyTheirSource := by
  intro i s s' t hi hemit hagree h
  obtain ⟨_, read, write, hrw⟩ := exists_readsThenWrites hi
  obtain ⟨v, hv, rfl⟩ := onSource_next_iff.1 (hrw.exec_eq s ▸ h)
  have h' : exec i s' = .next (write v s') := by
    rw [hrw.exec_eq, ← hrw.read_eq s s' hagree, hv, onSource_ok]
  exact ⟨_, h', hrw.write_dest hemit v s s', (exec_next_of_ne_load hi h').2.trans (exec_next_of_ne_load hi h).2.symm⟩

/-- Settles O57: a push changes only what waits behind the words the step consumes, a pop only what stands before the words
it emits. -/
theorem hostActionsCommuteWithSteps : Obligations.HostActionsCommuteWithSteps := by
  intro s t hen h
  obtain ⟨consumed, emitted, hin, hout, hstep⟩ := step_streams hen h
  refine ⟨fun w => ?_, fun w s' hpop => ?_⟩
  · have hpush := hstep (t.inQ ++ [w]) s.outQ
    rwa [← List.append_assoc, ← hin, ← hout] at hpush
  · obtain ⟨rest, ho, rfl⟩ := State.hostPop_eq_some_iff.1 hpop
    refine ⟨{ t with outQ := rest ++ emitted }, ?_, State.hostPop_eq_some_iff.2 ⟨_, by rw [hout, ho]; rfl, rfl⟩⟩
    have hpopped := hstep t.inQ rest
    rwa [← hin] at hpopped

end Sys2Proof.Machine
end

section
/-! SUPPORT. Which codes of `SEQ` select an operation, and which bit of which word carries a pixel; the statements of
30_encoding.md about the decoder and the packing settled from these. -/

namespace Sys2Proof.Machine

/-! ## The codes of `SEQ` -/

/-- The decoder and the encoder are the same relation between codes and operations (R100). -/
theorem decodeSeq_eq_some_iff {code : BitVec 4} {i : Instr} : decodeSeq code = some i ↔ code = encode i :=
  ⟨eq_encode_of_decodeSeq, fun h => h ▸ decodeSeq_encode i⟩

theorem encode_injective : Function.Injective encode := fun i j h =>
  Option.some_injective _ <| by rw [← decodeSeq_encode i, h, decodeSeq_encode]

theorem encode_toNat_le (i : Instr) : (encode i).toNat ≤ 12 := by
  cases i <;> decide

theorem exists_eq_encode_iff {code : BitVec 4} : (∃ i, code = encode i) ↔ code.toNat ≤ 12 := by
  constructor
  · rintro ⟨i, rfl⟩
    exact encode_toNat_le i
  · intro h
    have hdecodes : ∀ c : BitVec 4, c.toNat ≤ 12 → (decodeSeq c).isSome := by decide
    obtain ⟨i, hi⟩ := Option.isSome_iff_exists.1 (hdecodes code h)
    exact ⟨i, decodeSeq_eq_some_iff.1 hi⟩

theorem decodeSeq_eq_none_iff {code : BitVec 4} : decodeSeq code = none ↔ 12 < code.toNat := by
  rw [← not_le, ← exists_eq_encode_iff, Option.eq_none_iff_forall_ne_some]
  simp [decodeSeq_eq_some_iff]

/-- A step from a code that selects nothing is the fault `BadSeq` (R247). -/
theorem step_of_decodeSeq_eq_none {s : State} (h : decodeSeq s.seq = none) : step s = .fault (.badSeq s.seq) := by
  simp only [step, fetch, h, raise]

/-! ## The pixels of eight words -/

/-- Bit `j` of word `k` is the pixel at scan position `32·k + j` (20_memory.md R63). -/
theorem unpack_of_scan (words : Vector Word 8) (c : Fin 1) (y x : Fin 16) (k : Fin 8) {j : Nat} (hj : j < 32)
    (h : 16 * y.val + x.val = 32 * k.val + j) : unpack words c y x = (get1 words k).getLsbD j := by
  have hk : (16 * y.val + x.val) / 32 = k.val := by omega
  have hb : (16 * y.val + x.val) % 32 = j := by omega
  simp only [unpack, hk, hb]

/-- A number written as a sum of weighted bits is the number of these bits. -/
theorem sum_toNat_mul_two_pow {n : Nat} (f : Fin n → Bool) : ∑ j : Fin n, (f j).toNat * 2 ^ j.val = Nat.ofBits f := by
  induction n with
  | zero => rfl
  | succ n ih =>
    rw [Nat.ofBits_succ, ← ih, Fin.sum_univ_succ, Finset.mul_sum, add_comm]
    simp only [Function.comp_apply, Fin.val_succ, Fin.val_zero, pow_succ, pow_zero, mul_one]
    congr 1
    exact Finset.sum_congr rfl fun j _ => by ring

/-- Word `k` of a packed image has at bit `j` the pixel at scan position `32·k + j` (R95). -/
theorem getLsbD_pack (a : Image) (k : Fin 8) {j : Nat} (hj : j < 32) :
    (get1 (pack a) k).getLsbD j = a 0 ⟨(32 * k.val + j) / 16, by omega⟩ ⟨(32 * k.val + j) % 16, by omega⟩ := by
  rw [pack, get1_tab1, BitVec.getLsbD_ofNat, decide_eq_true hj, Bool.true_and, sum_toNat_mul_two_pow fun j : Fin 32 =>
    a 0 ⟨(32 * k.val + j.val) / 16, by omega⟩ ⟨(32 * k.val + j.val) % 16, by omega⟩, Nat.testBit_ofBits_lt _ _ hj]

theorem unpack_pack (a : Image) : unpack (pack a) = a := by
  funext c y x
  obtain rfl : c = 0 := Subsingleton.elim _ _
  have hj : (16 * y.val + x.val) % 32 < 32 := Nat.mod_lt _ (by decide)
  rw [unpack_of_scan _ 0 y x ⟨(16 * y.val + x.val) / 32, by omega⟩ hj (Nat.div_add_mod _ 32).symm, getLsbD_pack a _ hj]
  congr 1 <;> ext <;> dsimp only <;> omega

theorem pack_unpack (words : Vector Word 8) : pack (unpack words) = words := by
  refine ext_get1 fun k => BitVec.eq_of_getLsbD_eq fun j hj => ?_
  rw [getLsbD_pack _ _ hj]
  exact unpack_of_scan words 0 _ _ k hj (Nat.div_add_mod _ 16)

/-! ## The statements settled -/

/-- Settles O4: `SEQ` is legal exactly when it is the code of an operation; the last clause by the successor of a code. -/
theorem illegalCodesFaultAndAreNotReached : Obligations.IllegalCodesFaultAndAreNotReached := by
  refine ⟨fun code => ?_, fun s h => step_of_decodeSeq_eq_none (decodeSeq_eq_none_iff.2 h), fun s t hs h => ?_⟩
  · simp only [decodeSeq_eq_some_iff, exists_eq_encode_iff]
  · have hsucc : ∀ c : BitVec 4, c.toNat ≤ 12 → c ≠ 12 → (c + 1).toNat ≤ 12 := by decide
    rw [sequencerSuccessor s t h]
    split_ifs with h0 hlast h12
    · decide
    · decide
    · decide
    · exact hsucc s.seq hs h12

/-- Settles O44: both round trips, one pixel and one bit at a time. -/
theorem packAndUnpackAreInverse : Obligations.PackAndUnpackAreInverse := ⟨unpack_pack, pack_unpack⟩

/-- Settles O1: one evaluation of the decoder for each code. -/
theorem codesDecodeAsTheMapSays : Obligations.CodesDecodeAsTheMapSays := by
  unfold Obligations.CodesDecodeAsTheMapSays
  decide

/-- Settles O2: the decoder and the encoder are the same relation. -/
theorem encodeDecodeAgree : Obligations.EncodeDecodeAgree :=
  ⟨decodeSeq_encode, fun _ _ h => (decodeSeq_eq_some_iff.1 h).symm⟩

/-- Settles O45: row `2k` starts at scan position `32·k`, and row `2k + 1` sixteen positions later. -/
theorem wordsCarryTwoRows : Obligations.WordsCarryTwoRows := fun words k y x =>
  ⟨fun h => unpack_of_scan words 0 y x k (by omega) (by omega),
    fun h => unpack_of_scan words 0 y x k (by omega) (by omega)⟩

end Sys2Proof.Machine
end

section
/-! SUPPORT. One classification step by step: the stages on an image whose earlier stages are done, the state before each of
the twenty steps from eight waiting words, and lists of actions; the statement on the pseudo-operations of 30_encoding.md R107
settled from these. -/

namespace Sys2Proof.Machine

/-! ## The stages on one image -/

/-- The operation `i` has left its value for the image `a` in its destination (R211). -/
def State.Computed (s : State) (a : Image) : Instr → Prop
  | .load => s.img = written3 a
  | .pad1 => s.padbuf1 = written3 (padMap (I := 16) a)
  | .conv1 => s.fmC1 = written3 (convMap (O := 16) Config.store.w1 (fun n => (Config.store.t1 n).toInt) (padMap (I := 16) a))
  | .pool1 => s.fmP1 = written3 (poolMap (Q := 8)
      (convMap (O := 16) Config.store.w1 (fun n => (Config.store.t1 n).toInt) (padMap (I := 16) a)))
  | .pad2 => s.padbuf2 = written3 (padMap (I := 8) (poolMap (Q := 8)
      (convMap (O := 16) Config.store.w1 (fun n => (Config.store.t1 n).toInt) (padMap (I := 16) a))))
  | .conv2 => s.fmC2 = written3 (convMap (O := 8) Config.store.w2 (fun n => (Config.store.t2 n).toInt)
      (padMap (I := 8) (poolMap (Q := 8)
        (convMap (O := 16) Config.store.w1 (fun n => (Config.store.t1 n).toInt) (padMap (I := 16) a)))))
  | .pool2 => s.fmP2 = written3 (features Config.store a)
  | .flatten => s.flat = written1 (flattenMap (features Config.store a))
  | .dense1 => s.dv1 = written1 (denseMap Config.store.wd1 (flattenMap (features Config.store a)))
  | .sign => s.act1 = written1 (signMap (denseMap Config.store.wd1 (flattenMap (features Config.store a))))
  | .dense2 => s.dv2 = written1 (classScores Config.store a)
  | .argmax => s.result = some (classCode (classify Config.store a))
  | .emit => True

/-- Outside `LOAD`, the stages done so far are the operations with a code below `SEQ`. -/
theorem State.computes_iff {s : State} {a : Image} (hpos : 0 < s.seq.toNat) :
    s.Computes a ↔ ∀ i, (encode i).toNat < s.seq.toNat → s.Computed a i := by
  constructor
  · intro h i hi
    cases i with
    | load => exact eq_written3_iff.2 h.img
    | pad1 => exact eq_written3_iff.2 (h.padbuf1 hi)
    | conv1 => exact eq_written3_iff.2 (h.fmC1 hi)
    | pool1 => exact eq_written3_iff.2 (h.fmP1 hi)
    | pad2 => exact eq_written3_iff.2 (h.padbuf2 hi)
    | conv2 => exact eq_written3_iff.2 (h.fmC2 hi)
    | pool2 => exact eq_written3_iff.2 (h.fmP2 hi)
    | flatten => exact eq_written1_iff.2 (h.flat hi)
    | dense1 => exact eq_written1_iff.2 (h.dv1 hi)
    | sign => exact eq_written1_iff.2 (h.act1 hi)
    | dense2 => exact eq_written1_iff.2 (h.dv2 hi)
    | argmax => exact h.result hi
    | emit => trivial
  · intro h
    exact ⟨eq_written3_iff.1 (h .load hpos), eq_written3_iff.1 ∘ h .pad1, eq_written3_iff.1 ∘ h .conv1,
      eq_written3_iff.1 ∘ h .pool1, eq_written3_iff.1 ∘ h .pad2, eq_written3_iff.1 ∘ h .conv2, eq_written3_iff.1 ∘ h .pool2,
      eq_written1_iff.1 ∘ h .flatten, eq_written1_iff.1 ∘ h .dense1, eq_written1_iff.1 ∘ h .sign,
      eq_written1_iff.1 ∘ h .dense2, h .argmax⟩

/-- The operations have thirteen different destinations (R61). -/
theorem dest_injective : Function.Injective Instr.dest := by
  intro i j
  cases i <;> cases j <;> decide

/-- What an operation computed stays while other operations write their destinations. -/
theorem State.Computed.of_sameBut {s t : State} {a : Image} {i j : Instr} (h : s.Computed a j) (hij : i ≠ j)
    (hf : s.SameBut i.dest t) : t.Computed a j := by
  have hd : i.dest ≠ j.dest := dest_injective.ne hij
  cases j with
  | load => exact (hf.img hd).trans h
  | pad1 => exact (hf.padbuf1 hd).trans h
  | conv1 => exact (hf.fmC1 hd).trans h
  | pool1 => exact (hf.fmP1 hd).trans h
  | pad2 => exact (hf.padbuf2 hd).trans h
  | conv2 => exact (hf.fmC2 hd).trans h
  | pool2 => exact (hf.fmP2 hd).trans h
  | flatten => exact (hf.flat hd).trans h
  | dense1 => exact (hf.dv1 hd).trans h
  | sign => exact (hf.act1 hd).trans h
  | dense2 => exact (hf.dv2 hd).trans h
  | argmax => exact (hf.result hd).trans h
  | emit => trivial

/-- An operation other than `LOAD` steps once the operations before it are done, and then it is done too: each stage reads the
destination of the operation before it. -/
theorem exec_next_of_computed {s : State} {a : Image} {i : Instr} (hi : i ≠ .load)
    (h : ∀ j, (encode j).toNat < (encode i).toNat → s.Computed a j) : ∃ t, exec i s = .next t ∧ t.Computed a i := by
  cases i with
  | load => exact absurd rfl hi
  | pad1 => exact ⟨_, execPad1_of_holds _ (h .load (by decide)), rfl⟩
  | conv1 => exact ⟨_, execConv1_of_holds _ (h .pad1 (by decide)), rfl⟩
  | pool1 => exact ⟨_, execPool1_of_holds _ (h .conv1 (by decide)), rfl⟩
  | pad2 => exact ⟨_, execPad2_of_holds _ (h .pool1 (by decide)), rfl⟩
  | conv2 => exact ⟨_, execConv2_of_holds _ (h .pad2 (by decide)), rfl⟩
  | pool2 => exact ⟨_, execPool2_of_holds _ (h .conv2 (by decide)), rfl⟩
  | flatten => exact ⟨_, execFlatten_of_holds _ (h .pool2 (by decide)), rfl⟩
  | dense1 => exact ⟨_, execDense1_of_holds _ (h .flatten (by decide)), rfl⟩
  | sign => exact ⟨_, execSign_of_holds _ (h .dense1 (by decide)), rfl⟩
  | dense2 => exact ⟨_, execDense2_of_holds _ (h .sign (by decide)), rfl⟩
  | argmax => exact ⟨_, execArgmax_of_holds _ (h .dense2 (by decide)), rfl⟩
  | emit => exact ⟨_, execEmit_of_holds _ (h .argmax (by decide)), trivial⟩

theorem seqAfter_toNat {code : BitVec 4} (h : code.toNat < 12) : (seqAfter code).toNat = code.toNat + 1 := by
  revert code
  decide

/-- R211: from the codes 1 to 11, a step does the next stage of the image in progress and touches neither `WCNT` nor the
streams. -/
theorem State.Computes.next {s : State} {a : Image} (h : s.Computes a) (hpos : 0 < s.seq.toNat) (hlt : s.seq.toNat < 12) :
    ∃ t, step s = .next t ∧ t.Computes a ∧ t.seq.toNat = s.seq.toNat + 1 ∧ t.wcnt = s.wcnt ∧ t.inQ = s.inQ ∧
      t.outQ = s.outQ := by
  obtain ⟨i, hi⟩ := exists_eq_encode_iff.2 hlt.le
  have hload : i ≠ .load := by rintro rfl; simp [hi, encode] at hpos
  have hemit : i ≠ .emit := by rintro rfl; simp [hi, encode] at hlt
  have hdone := (State.computes_iff hpos).1 h
  obtain ⟨t, ht, hnew⟩ := exec_next_of_computed hload (hi ▸ hdone)
  obtain ⟨hframe, hseq⟩ := exec_next_of_ne_load hload ht
  have hsucc : t.seq.toNat = s.seq.toNat + 1 := by rw [hseq, ← hi, seqAfter_toNat hlt]
  refine ⟨t, (step_of_seq_eq_encode hi).trans ht, (State.computes_iff (by omega)).2 fun j hj => ?_, hsucc, hframe.wcnt,
    hframe.inQ (by cases i <;> decide), hframe.outQ (dest_injective.ne hemit)⟩
  by_cases hij : i = j
  · exact hij ▸ hnew
  · have hne : (encode j).toNat ≠ (encode i).toNat := fun he => hij (encode_injective (BitVec.eq_of_toNat_eq he.symm))
    exact (hdone j (by rw [hi] at hsucc ⊢; omega)).of_sameBut hij hframe

/-- R219: with every stage done, `EMIT` sends the result word of the class of the image. -/
theorem State.Computes.emits {s : State} {a : Image} (h : s.Computes a) (hseq : s.seq = encode .emit) :
    step s = .next { s.pushOut (resultWord (classCode (classify Config.store a))) with seq := 0 } := by
  rw [step_of_seq_eq_encode hseq]
  exact execEmit_of_holds _ (h.result (by rw [hseq]; decide))

/-! ## Loading an image -/

/-- The pixels that the first `k` words of an image carry hold their bits (R63). -/
def State.HoldsPixels (s : State) (a : Image) (k : Nat) : Prop :=
  ∀ c y x, 16 * y.val + x.val < 32 * k → get3 s.img c y x = some (a c y x)

/-- One more word that carries the image's bits: its own pixels hold them, and those before it are kept. -/
theorem State.HoldsPixels.consumeWord {s : State} {a : Image} {w : Word} (h : s.HoldsPixels a s.wcnt.toNat)
    (hw : ∀ c y x, (16 * y.val + x.val) / 32 = s.wcnt.toNat → a c y x = w.getLsbD ((16 * y.val + x.val) % 32)) :
    (consumeWord w s).HoldsPixels a (s.wcnt.toNat + 1) := by
  intro c y x hlt
  rw [consumeWord_img, get3_writePixels]
  by_cases hk : (16 * y.val + x.val) / 32 = s.wcnt.toNat
  · rw [if_pos hk, hw c y x hk]
  · have hbefore : 16 * y.val + x.val < 32 * s.wcnt.toNat := by omega
    have h0 : s.wcnt ≠ 0 := fun h0 => by rw [h0] at hbefore; exact absurd hbefore (Nat.not_lt_zero _)
    rw [if_neg hk, if_neg h0, h c y x hbefore]

/-- From `LOAD`, the next code is `PAD1` exactly after the eighth word. -/
theorem consumeWord_seq_toNat (w : Word) {s : State} (hseq : s.seq = 0) :
    (consumeWord w s).seq.toNat = if s.wcnt.toNat = 7 then 1 else 0 := by
  have h7 : s.wcnt = 7 ↔ s.wcnt.toNat = 7 := BitVec.toNat_inj.symm
  rw [consumeWord_seq, hseq, apply_ite BitVec.toNat]
  simp only [h7]
  rfl

theorem step_load {s : State} {w : Word} {rest : List Word} (hseq : s.seq = 0) (hq : s.inQ = w :: rest) :
    step s = .next (consumeWord w { s with inQ := rest }) :=
  (step_of_seq_eq_encode (i := .load) hseq).trans (execLoad_cons hq)

/-- Up to `PAD1`, the image alone decides which stages are done. -/
theorem State.Computes.of_img {s : State} {a : Image} (hseq : s.seq.toNat ≤ 1) (h : Holds3 s.img a) : s.Computes a := by
  refine ⟨h, ?_, ?_, ?_, ?_, ?_, ?_, ?_, ?_, ?_, ?_, ?_⟩
  all_goals exact fun hle => absurd (hle.trans hseq) (by decide)

/-! ## The twenty steps of a classification -/

/-- The state before step `k` of the classification of eight words (R220), for `k` from 0 to 19: the words not yet consumed
and the words `rest` behind them wait, `OUT_Q` is as it was before, and the pixels loaded or the stages done so far hold
their values. -/
structure State.Classifies (words : Vector Word 8) (rest out : List Word) (k : Nat) (s : State) : Prop where
  seq : s.seq.toNat = k - 7
  wcnt : s.wcnt.toNat = if k < 8 then k else 0
  inQ : s.inQ = words.toList.drop k ++ rest
  outQ : s.outQ = out
  loading : k < 8 → s.HoldsPixels (unpack words) k
  running : 8 ≤ k → s.Computes (unpack words)

section
variable {words : Vector Word 8} {rest out : List Word} {k : Nat} {s : State}

theorem State.Classifies.start (hseq : s.seq = 0) (hwcnt : s.wcnt = 0) (hq : s.inQ = words.toList ++ rest) :
    s.Classifies words rest s.outQ 0 where
  seq := by rw [hseq]; rfl
  wcnt := by rw [hwcnt]; rfl
  inQ := hq
  outQ := rfl
  loading _ _ _ _ h := absurd h (Nat.not_lt_zero _)
  running h := absurd h (by decide)

/-- Consuming word `k`, once it is popped, leads to the state before step `k + 1`. -/
theorem State.Classifies.consumeWord (hk : s.wcnt.toNat < 8) (hseq : s.seq = 0)
    (hq : s.inQ = words.toList.drop (s.wcnt.toNat + 1) ++ rest) (hpixels : s.HoldsPixels (unpack words) s.wcnt.toNat) :
    (consumeWord (get1 words ⟨s.wcnt.toNat, hk⟩) s).Classifies words rest s.outQ (s.wcnt.toNat + 1) := by
  have hpixels' := hpixels.consumeWord fun c y x he =>
    unpack_of_scan words c y x ⟨s.wcnt.toNat, hk⟩ (Nat.mod_lt _ (by decide)) (by dsimp only; omega)
  have hseq' := consumeWord_seq_toNat (get1 words ⟨s.wcnt.toNat, hk⟩) hseq
  exact
    { seq := by rw [hseq']; split <;> omega
      wcnt := by rw [consumeWord_wcnt_toNat]; split <;> omega
      inQ := (consumeWord_inQ _ s).trans hq
      outQ := consumeWord_outQ _ s
      loading := fun _ => hpixels'
      running := fun h8 => .of_img (by rw [hseq']; split <;> omega) fun c y x => hpixels' c y x (by omega) }

/-- The first eight steps consume one word each. -/
theorem State.Classifies.next_load (h : s.Classifies words rest out k) (hk : k < 8) :
    ∃ t, step s = .next t ∧ t.Classifies words rest out (k + 1) := by
  have hseq : s.seq = 0 := BitVec.eq_of_toNat_eq (h.seq.trans (Nat.sub_eq_zero_of_le (by omega)))
  obtain rfl : s.wcnt.toNat = k := by rw [h.wcnt, if_pos hk]
  obtain rfl := h.outQ
  have hq : s.inQ = get1 words ⟨s.wcnt.toNat, hk⟩ :: (words.toList.drop (s.wcnt.toNat + 1) ++ rest) := by
    rw [h.inQ, List.drop_eq_getElem_cons (by simpa using hk)]
    rfl
  exact ⟨_, step_load hseq hq,
    State.Classifies.consumeWord (s := { s with inQ := words.toList.drop (s.wcnt.toNat + 1) ++ rest }) hk hseq rfl
      (h.loading hk)⟩

/-- The next eleven steps perform one stage each. -/
theorem State.Classifies.next_stage (h : s.Classifies words rest out k) (h8 : 8 ≤ k) (hk : k < 19) :
    ∃ t, step s = .next t ∧ t.Classifies words rest out (k + 1) := by
  have hseq := h.seq
  have hdrop : ∀ n, 8 ≤ n → words.toList.drop n = [] := fun n hn => List.drop_eq_nil_of_le (by simpa using hn)
  obtain ⟨t, ht, hcomp, hseq', hwcnt, hinQ, houtQ⟩ := (h.running h8).next (by omega) (by omega)
  exact ⟨t, ht,
    { seq := by omega
      wcnt := by rw [hwcnt, h.wcnt, if_neg (by omega), if_neg (by omega)]
      inQ := by rw [hinQ, h.inQ, hdrop k h8, hdrop (k + 1) (by omega)]
      outQ := houtQ.trans h.outQ
      loading := fun hlt => by omega
      running := fun _ => hcomp }⟩

theorem State.Classifies.next (h : s.Classifies words rest out k) (hk : k < 19) :
    ∃ t, step s = .next t ∧ t.Classifies words rest out (k + 1) := by
  by_cases h8 : k < 8
  · exact h.next_load h8
  · exact h.next_stage (by omega) hk

/-- The twentieth step sends the class of the image the eight words carry. -/
theorem State.Classifies.emits (h : s.Classifies words rest out 19) :
    ∃ t, step s = .next t ∧ t.seq = 0 ∧ t.wcnt = 0 ∧ t.inQ = rest ∧
      t.outQ = out ++ [resultWord (classCode (classify Config.store (unpack words)))] := by
  refine ⟨_, (h.running (by decide)).emits (BitVec.eq_of_toNat_eq h.seq), rfl, BitVec.eq_of_toNat_eq h.wcnt, ?_, ?_⟩
  · simp [h.inQ]
  · simp [h.outQ]

end

/-! ## Runs of the engine -/

theorem run_succ_next_iff {k : Nat} {s t : State} : Host.Core.run Sys2Proof.core (k + 1) s = .next t ↔
    ∃ u, step s = .next u ∧ Host.Core.run Sys2Proof.core k u = .next t := by
  cases h : step s <;> simp [Host.Core.run, show Sys2Proof.core.step s = _ from h]

/-- One more step at the end of a run of the engine. -/
theorem run_succ_of_next {k : Nat} {s t u : State} (hrun : Host.Core.run Sys2Proof.core k s = .next t)
    (hstep : step t = .next u) : Host.Core.run Sys2Proof.core (k + 1) s = .next u := by
  induction k generalizing s with
  | zero =>
    cases hrun
    exact run_succ_next_iff.2 ⟨u, hstep, rfl⟩
  | succ k ih =>
    obtain ⟨s', hs, hrun'⟩ := run_succ_next_iff.1 hrun
    exact run_succ_next_iff.2 ⟨s', hs, ih hrun'⟩

/-- R220: from eight waiting words, the state before each of the twenty steps. -/
theorem State.Classifies.run {words : Vector Word 8} {rest out : List Word} {s : State} (h : s.Classifies words rest out 0)
    {k : Nat} (hk : k < 20) : ∃ t : State, Host.Core.run Sys2Proof.core k s = .next t ∧ t.Classifies words rest out k := by
  induction k with
  | zero => exact ⟨s, rfl, h⟩
  | succ k ih =>
    obtain ⟨u, hu, hc⟩ := ih (by omega)
    obtain ⟨t, ht, hc'⟩ := hc.next (by omega)
    exact ⟨t, run_succ_of_next hu ht, hc'⟩

/-- R220: from eight waiting words, the state after the twentieth step. -/
theorem run_twenty_of_eight_words {s : State} {words : Vector Word 8} {rest : List Word} (hseq : s.seq = 0) (hwcnt : s.wcnt = 0)
    (hq : s.inQ = words.toList ++ rest) :
    ∃ t : State, Host.Core.run Sys2Proof.core 20 s = .next t ∧ t.seq = 0 ∧ t.wcnt = 0 ∧ t.inQ = rest ∧
      t.outQ = s.outQ ++ [resultWord (classCode (classify Config.store (unpack words)))] := by
  obtain ⟨u, hu, hc⟩ := (State.Classifies.start hseq hwcnt hq).run (k := 19) (by decide)
  obtain ⟨t, ht, hend⟩ := hc.emits
  exact ⟨t, run_succ_of_next hu ht, hend⟩

/-! ## Lists of actions -/

theorem Run.acts_append (r : Run) (l l' : List Action) : r.acts (l ++ l') = (r.acts l).acts l' := List.foldl_append

theorem Run.acts_cons (r : Run) (a : Action) (l : List Action) : r.acts (a :: l) = (r.act a).acts l := rfl

/-- Pushing several words appends them to `IN_Q` and to the history (R216). -/
theorem Run.acts_hostPush (r : Run) (ws : List Word) : r.acts (ws.map .hostPush) =
    { r with
      inst := { r.inst with state := { r.inst.state with inQ := r.inst.state.inQ ++ ws } }
      pushed := r.pushed ++ ws } := by
  induction ws generalizing r with
  | nil => simp [Run.acts]
  | cons w ws ih =>
    rw [List.map_cons, Run.acts_cons, ih]
    simp [Run.act, State.hostPush]

/-- From a run without a fault, engine steps are the steps of the machine, as long as these answer. -/
theorem Run.acts_engineStep {k : Nat} {r : Run} {t : State} (hf : r.inst.faultMark = none)
    (h : Host.Core.run Sys2Proof.core k r.inst.state = .next t) :
    r.acts (List.replicate k .engineStep) = { r with inst := { state := t, faultMark := none } } := by
  induction k generalizing r with
  | zero =>
    cases h
    rw [← hf]
    rfl
  | succ k ih =>
    obtain ⟨u, hu, hrun⟩ := run_succ_next_iff.1 h
    rw [List.replicate_succ, Run.acts_cons, Run.act_engineStep_next hf hu, ih rfl hrun]

/-! ## The host's side -/

theorem State.cleanlyQuiescent_iff {s : State} : s.cleanlyQuiescent = true ↔ s.seq = 0 ∧ s.inQ = [] ∧ s.wcnt = 0 := by
  simp [State.cleanlyQuiescent, State.quiescent, and_assoc]

/-- The host reads from a result word the class index the engine wrote (R96, R107). -/
theorem classOfWord_resultWord (r : BitVec 4) : classOfWord (resultWord r) = r := by
  revert r
  decide

/-- R107: the run after `SENDIMG`, `CLASSIFY` and `RECV`, whatever the buffers held before. -/
theorem Run.acts_sendImage_classify_recv {r : Run} (a : Image) (hf : r.inst.faultMark = none)
    (hquiet : r.inst.state.cleanlyQuiescent = true) (hout : r.inst.state.outQ = []) :
    ∃ t, t.cleanlyQuiescent = true ∧ t.outQ = [] ∧ r.acts (sendImage a ++ classifySteps ++ [.hostPop]) =
      { inst := { state := t, faultMark := none }
        pushed := r.pushed ++ (pack a).toList
        popped := r.popped ++ [resultWord (classCode (classify Config.store a))] } := by
  obtain ⟨hseq, hinQ, hwcnt⟩ := State.cleanlyQuiescent_iff.1 hquiet
  obtain ⟨t, ht, hseq', hwcnt', hinQ', houtQ⟩ :=
    run_twenty_of_eight_words (s := { r.inst.state with inQ := r.inst.state.inQ ++ (pack a).toList }) (words := pack a) (rest := [])
      hseq hwcnt (by rw [hinQ, List.nil_append, List.append_nil])
  rw [unpack_pack, hout, List.nil_append] at houtQ
  refine ⟨{ t with outQ := [] }, State.cleanlyQuiescent_iff.2 ⟨hseq', hinQ', hwcnt'⟩, rfl, ?_⟩
  have hsteps : (r.acts (sendImage a)).acts classifySteps =
      { inst := { state := t, faultMark := none }, pushed := r.pushed ++ (pack a).toList, popped := r.popped } := by
    rw [sendImage, Run.acts_hostPush]
    exact Run.acts_engineStep hf ht
  rw [Run.acts_append, Run.acts_append, hsteps]
  exact Run.act_hostPop_cons houtQ

/-- Settles O50: the host reads the class from the one word it popped. -/
theorem sendingAnImageReturnsItsClass : Obligations.SendingAnImageReturnsItsClass := by
  intro r a hf hquiet hout
  obtain ⟨t, hquiet', hout', hacts⟩ := Run.acts_sendImage_classify_recv a hf hquiet hout
  rw [hacts]
  exact ⟨_, rfl, classOfWord_resultWord _, rfl, hquiet', hout'⟩

end Sys2Proof.Machine
end

section
/-! SUPPORT. Where the elements of a padded map come from, and the number of 1 bits under padding and flattening; the
statements of 40_bit_tensor_buffer_pad.md settled from these. -/

namespace Sys2Proof.Machine

/-! ## The centre and the border -/

/-- `padMap_inner` for any indices one larger than those of the input (R123). -/
theorem padMap_of_eq_add_one {M I : Nat} (a : Map3 Bool M I I) (m : Fin M) {Y X : Fin (I + 2)} {y x : Fin I}
    (hY : Y.val = y.val + 1) (hX : X.val = x.val + 1) : padMap a m Y X = a m y x :=
  (congrArg₂ (padMap a m) (Fin.ext hY) (Fin.ext hX)).trans (padMap_inner a m y x)

/-- A buffer with a padded map holds in its centre what a buffer with the unpadded map does, at offset 1 (R123). -/
theorem get3_written3_padMap_inner {M I : Nat} (a : Map3 Bool M I I) (m : Fin M) {Y X : Fin (I + 2)} {y x : Fin I}
    (hY : Y.val = y.val + 1) (hX : X.val = x.val + 1) :
    get3 (written3 (padMap a)) m Y X = get3 (written3 a) m y x := by
  rw [get3_written3, get3_written3, padMap_of_eq_add_one a m hY hX]

/-- A buffer with a padded map holds the bit 0 on its border (R124). -/
theorem get3_written3_padMap_border {M I : Nat} (a : Map3 Bool M I I) (m : Fin M) {Y X : Fin (I + 2)}
    (h : Y.val = 0 ∨ Y.val = I + 1 ∨ X.val = 0 ∨ X.val = I + 1) :
    get3 (written3 (padMap a)) m Y X = some false := by
  rw [get3_written3, padMap_border a m Y X h]

/-! ## The number of 1 bits -/

/-- A sum over `I + 2` indices whose first and last terms are 0 is the sum over the `I` indices between them. -/
theorem sum_eq_sum_inner {I : Nat} (f : Fin (I + 2) → Nat) (hfirst : f 0 = 0) (hlast : f (Fin.last (I + 1)) = 0) :
    ∑ i, f i = ∑ i : Fin I, f i.succ.castSucc := by
  rw [Fin.sum_univ_castSucc, hlast, add_zero, Fin.sum_univ_succ, Fin.castSucc_zero, hfirst, zero_add]

/-- The border of a padded channel adds no 1 bit (R124). -/
theorem sum_padMap {M I : Nat} (a : Map3 Bool M I I) (m : Fin M) :
    ∑ Y, ∑ X, (padMap a m Y X).toNat = ∑ y, ∑ x, (a m y x).toNat := by
  have hborder : ∀ Y X : Fin (I + 2), Y.val = 0 ∨ Y.val = I + 1 ∨ X.val = 0 ∨ X.val = I + 1 →
      (padMap a m Y X).toNat = 0 := fun Y X h => by rw [padMap_border a m Y X h]; rfl
  rw [sum_eq_sum_inner _ (Finset.sum_eq_zero fun X _ => hborder _ X (by simp))
    (Finset.sum_eq_zero fun X _ => hborder _ X (by simp))]
  refine Finset.sum_congr rfl fun y _ => ?_
  rw [sum_eq_sum_inner _ (hborder _ _ (by simp)) (hborder _ _ (by simp))]
  exact Finset.sum_congr rfl fun x _ => by rw [padMap_of_eq_add_one (y := y) (x := x) a m (by simp) (by simp)]

/-- Different elements have different flat positions (43_flatten.md R170). -/
theorem flatIndex_injective {c c' : Fin 32} {y y' x x' : Fin 4} (h : flatIndex c y x = flatIndex c' y' x') :
    c = c' ∧ y = y' ∧ x = x' := by
  simp only [flatIndex, Fin.mk.injEq] at h
  omega

/-- Each flat position belongs to exactly one element (43_flatten.md R170). -/
theorem flatIndex_bijective : Function.Bijective fun p : Fin 32 × Fin 4 × Fin 4 => flatIndex p.1 p.2.1 p.2.2 := by
  refine (Fintype.bijective_iff_injective_and_card _).2 ⟨?_, by simp⟩
  rintro ⟨c, y, x⟩ ⟨c', y', x'⟩ h
  obtain ⟨rfl, rfl, rfl⟩ := flatIndex_injective h
  rfl

/-- Flattening moves each element to its own position, so it keeps the number of 1 bits (43_flatten.md R171). -/
theorem sum_flattenMap (a : Map3 Bool 32 4 4) :
    ∑ i, (flattenMap a i).toNat = ∑ c, ∑ y, ∑ x, (a c y x).toNat := by
  calc ∑ i, (flattenMap a i).toNat
      = ∑ p : Fin 32 × Fin 4 × Fin 4, (flattenMap a (flatIndex p.1 p.2.1 p.2.2)).toNat :=
        (flatIndex_bijective.sum_comp fun i => (flattenMap a i).toNat).symm
    _ = ∑ c, ∑ y, ∑ x, (a c y x).toNat := by simp only [flattenMap_flatIndex, Fintype.sum_prod_type]

/-! ## The statements settled -/

/-- Settles O12: a complete image is the map it holds, and what is written is that map padded; an incomplete one makes the
read of the source fault. -/
theorem pad1CentresTheImage : Obligations.Pad1CentresTheImage := by
  refine ⟨rfl, fun s => ⟨fun hfull => ?_, onSource_readAll3_bot⟩⟩
  obtain ⟨a, ha⟩ := exists_written3 hfull
  have hexec : exec .pad1 s = .next _ := execPad1_of_holds a ha
  obtain ⟨hframe, hseq⟩ := exec_next_of_ne_load (by decide) hexec
  rw [ha]
  exact ⟨_, hexec, hseq, hframe, fun _ _ _ _ => get3_written3_padMap_inner a 0,
    fun _ _ => get3_written3_padMap_border a 0⟩

/-- Settles O13: as O12, in every channel. -/
theorem pad2CentresThePooledMap : Obligations.Pad2CentresThePooledMap := by
  refine ⟨rfl, fun s => ⟨fun hfull => ?_, onSource_readAll3_bot⟩⟩
  obtain ⟨a, ha⟩ := exists_written3 hfull
  have hexec : exec .pad2 s = .next _ := execPad2_of_holds a ha
  obtain ⟨hframe, hseq⟩ := exec_next_of_ne_load (by decide) hexec
  rw [ha]
  exact ⟨_, hexec, hseq, hframe, fun m _ _ _ _ => get3_written3_padMap_inner a m,
    fun m _ _ => get3_written3_padMap_border a m⟩

/-- Settles O43: the border holds no 1 bit, and the flat position is a bijection. -/
theorem dataMovesKeepTheOnes : Obligations.DataMovesKeepTheOnes := ⟨fun _ _ => sum_padMap, sum_flattenMap⟩

end Sys2Proof.Machine
end

section
/-! SUPPORT. The number of agreements of a window and a kernel and the vote: their ranges, their laws under complement and the
strict threshold on a vote; the statements of 41_binarized_conv_engine.md settled from these. -/

namespace Sys2Proof.Machine

/-! ## Agreement -/

section
variable {M O : Nat} (input : Map3 Bool M (O + 2) (O + 2)) (kernel : Fin M → Fin 3 → Fin 3 → Bool) (y x : Fin O)

/-- A kernel has nine positions for each input channel. -/
theorem agree_le : agree input kernel y x ≤ 9 * M := by
  calc agree input kernel y x
      ≤ ∑ _m : Fin M, ∑ _r : Fin 3, ∑ _c : Fin 3, 1 :=
        Finset.sum_le_sum fun _ _ => Finset.sum_le_sum fun _ _ => Finset.sum_le_sum fun _ _ => xnor_le_one _ _
    _ = 9 * M := by simp [mul_comm]

/-- No position agrees exactly when the window is the complement of the kernel. -/
theorem agree_eq_zero_iff : agree input kernel y x = 0 ↔
    ∀ m (r c : Fin 3), input m ⟨y.val + r.val, by omega⟩ ⟨x.val + c.val, by omega⟩ = !kernel m r c := by
  simp [agree, xnor_eq_zero]

theorem agree_not_not : agree (fun m Y X => !input m Y X) (fun m r c => !kernel m r c) y x = agree input kernel y x := by
  simp only [agree, xnor_not_not]

/-- Complementing the map exchanges agreement and disagreement at every position of the window (R148). -/
theorem agree_not_input_add : agree (fun m Y X => !input m Y X) kernel y x + agree input kernel y x = 9 * M := by
  simp [agree, ← Finset.sum_add_distrib, xnor_not_add, mul_comm]

/-- Complementing the kernel counts the same as complementing the map. -/
theorem agree_not_kernel : agree input (fun m r c => !kernel m r c) y x = agree (fun m Y X => !input m Y X) kernel y x := by
  simpa using agree_not_not (fun m Y X => !input m Y X) kernel y x

/-! ## The vote -/

theorem vote_eq : vote input kernel y x = 2 * agree input kernel y x - 9 * M := rfl

/-- A vote over `M` channels lies between `-9·M` and `9·M` and has the parity of `9·M` (R147). -/
theorem vote_range : -(9 * M : Int) ≤ vote input kernel y x ∧ vote input kernel y x ≤ 9 * M ∧
    vote input kernel y x % 2 = (9 * M : Int) % 2 := by
  have h := agree_le input kernel y x
  rw [vote_eq]
  omega

theorem vote_not_not : vote (fun m Y X => !input m Y X) (fun m r c => !kernel m r c) y x = vote input kernel y x := by
  rw [vote_eq, vote_eq, agree_not_not]

theorem vote_not_input : vote (fun m Y X => !input m Y X) kernel y x = -vote input kernel y x := by
  have h := agree_not_input_add input kernel y x
  rw [vote_eq, vote_eq]
  omega

theorem vote_not_kernel : vote input (fun m r c => !kernel m r c) y x = -vote input kernel y x := by
  rw [vote_eq, agree_not_kernel, ← vote_eq, vote_not_input]

/-- The product of two units is 1 for equal bits and -1 for different ones (R143). -/
theorem signedUnit_mul (a b : Bool) : signedUnit a * signedUnit b = 2 * xnor a b - 1 := by
  cases a <;> cases b <;> rfl

/-- Each equal pair adds 1 to the vote and each different pair takes 1 from it (R143). -/
theorem vote_eq_sum_signedUnit : vote input kernel y x = ∑ m : Fin M, ∑ r : Fin 3, ∑ c : Fin 3,
    signedUnit (input m ⟨y.val + r.val, by omega⟩ ⟨x.val + c.val, by omega⟩) * signedUnit (kernel m r c) := by
  simp only [signedUnit_mul, Finset.sum_sub_distrib, ← Finset.mul_sum]
  simp [vote_eq, agree, mul_comm]

/-- The vote with its agreements counted in ℤ. -/
theorem vote_eq_sum_ite : vote input kernel y x = 2 * (∑ m : Fin M, ∑ r : Fin 3, ∑ c : Fin 3,
    if input m ⟨y.val + r.val, by omega⟩ ⟨x.val + c.val, by omega⟩ = kernel m r c then (1 : Int) else 0) - 9 * M := by
  simp only [vote_eq, agree, xnor, Nat.cast_sum, Nat.cast_ite, Nat.cast_one, Nat.cast_zero]

end

/-! ## The threshold -/

section
variable {M N O : Nat} {weights : Fin M → Fin N → Fin 3 → Fin 3 → Bool} {threshold : Fin N → Int}
  {input : Map3 Bool M (O + 2) (O + 2)} {n : Fin N} {y x : Fin O}

theorem convMap_eq_true_iff :
    convMap weights threshold input n y x = true ↔ threshold n < vote input (fun m => weights m n) y x := exceeds_eq_true

theorem convMap_eq_false_iff :
    convMap weights threshold input n y x = false ↔ vote input (fun m => weights m n) y x ≤ threshold n := exceeds_eq_false

/-- The output bit with the vote written out (R140). -/
theorem convMap_eq_decide : convMap weights threshold input n y x = decide (threshold n <
    2 * (∑ m : Fin M, ∑ r : Fin 3, ∑ c : Fin 3,
      if input m ⟨y.val + r.val, by omega⟩ ⟨x.val + c.val, by omega⟩ = weights m n r c then (1 : Int) else 0) - 9 * M) := by
  rw [← vote_eq_sum_ite]
  rfl

end

/-! ## Padded maps of one value -/

/-- A padded map of 1 bits is 1 exactly where row and column are inner ones (R124). -/
theorem padMap_true {M I : Nat} (m : Fin M) (Y X : Fin (I + 2)) : padMap (fun _ _ _ => true) m Y X =
    (decide (1 ≤ Y.val ∧ Y.val ≤ I) && decide (1 ≤ X.val ∧ X.val ≤ I)) := by
  simp [padMap]

theorem padMap_false {M I : Nat} (m : Fin M) (Y X : Fin (I + 2)) : padMap (fun _ _ _ => false) m Y X = false := by
  simp [padMap]

theorem xnor_true (a : Bool) : xnor a true = a.toNat := by
  cases a <;> rfl

theorem toNat_and (a b : Bool) : (a && b).toNat = a.toNat * b.toNat := by
  cases a <;> cases b <;> rfl

/-- Of the three rows, or columns, of a window at position `y`, one is on the border at either end and none in between. -/
theorem sum_inner_window (y : Fin 16) :
    ∑ r : Fin 3, (decide (1 ≤ y.val + r.val ∧ y.val + r.val ≤ 16)).toNat = if y.val = 0 ∨ y.val = 15 then 2 else 3 := by
  revert y
  decide

/-- The window of a padded map of 1 bits at `(y, x)` has as many 1 bits as it has inner rows times inner columns (R146). -/
theorem agree_padMap_true (y x : Fin 16) :
    agree (O := 16) (padMap (I := 16) fun (_ : Fin 1) _ _ => true) (fun _ _ _ => true) y x =
      (if y.val = 0 ∨ y.val = 15 then 2 else 3) * (if x.val = 0 ∨ x.val = 15 then 2 else 3) := by
  simp only [agree, xnor_true, padMap_true, toNat_and, Fin.sum_univ_one, ← Finset.sum_mul_sum, sum_inner_window]

/-! ## The statements settled -/

/-- Settles O14: a complete source is the map it holds, and what is written is that map's convolution over one channel; an
incomplete one makes the read of the source fault. -/
theorem conv1ThresholdsVotes : Obligations.Conv1ThresholdsVotes := by
  refine ⟨rfl, fun s => ⟨fun a ha => ?_, onSource_readAll3_bot⟩⟩
  have hexec : exec .conv1 s = .next _ := execConv1_of_holds a (eq_written3_iff.2 ha)
  obtain ⟨hframe, hseq⟩ := exec_next_of_ne_load (by decide) hexec
  refine ⟨_, hexec, hseq, hframe, fun n y x => ?_⟩
  rw [get3_written3, convMap_eq_decide, Fin.sum_univ_one]
  rfl

/-- Settles O15: as O14, over sixteen channels. -/
theorem conv2ThresholdsVotes : Obligations.Conv2ThresholdsVotes := by
  refine ⟨rfl, fun s => ⟨fun a ha => ?_, onSource_readAll3_bot⟩⟩
  have hexec : exec .conv2 s = .next _ := execConv2_of_holds a (eq_written3_iff.2 ha)
  obtain ⟨hframe, hseq⟩ := exec_next_of_ne_load (by decide) hexec
  refine ⟨_, hexec, hseq, hframe, fun n y x => ?_⟩
  rw [get3_written3, convMap_eq_decide]
  rfl

/-- Settles O31: the widths from the ranges at one channel and at sixteen. -/
theorem voteRangesAndParity : Obligations.VoteRangesAndParity := by
  refine ⟨fun M O input kernel y x => ⟨agree_le .., vote_range ..⟩, fun input kernel y x => ?_, fun input kernel y x => ?_⟩
  all_goals
    have hagree := agree_le input kernel y x
    have hvote := vote_range input kernel y x
    omega

/-- Settles O32: the first two forms by arithmetic, the third pair by pair. -/
theorem voteIsSignedDotProduct : Obligations.VoteIsSignedDotProduct := by
  intro M O input kernel y x
  have h := vote_eq input kernel y x
  exact ⟨by omega, h, vote_eq_sum_signedUnit input kernel y x⟩

/-- Settles O33: the laws of `agree` under complement, and those of the vote that follow. -/
theorem convolutionComplementSymmetry : Obligations.ConvolutionComplementSymmetry := fun _ _ input kernel y x =>
  ⟨⟨agree_not_not .., vote_not_not ..⟩, ⟨agree_not_input_add .., vote_not_input ..⟩,
    ⟨agree_not_kernel input kernel y x ▸ agree_not_input_add .., vote_not_kernel ..⟩⟩

/-- Settles O34: by the range of the vote, which has its least value where no position agrees. -/
theorem extremeThresholdsForceChannels : Obligations.ExtremeThresholdsForceChannels := by
  intro M N O weights threshold input n y x
  have hvote := vote_eq input (fun m => weights m n) y x
  have hrange := vote_range input (fun m => weights m n) y x
  refine ⟨fun h => ?_, fun h => ?_, fun h => ?_⟩
  · rw [convMap_eq_false_iff]
    omega
  · rw [convMap_eq_true_iff]
    omega
  · rw [convMap_eq_false_iff, ← agree_eq_zero_iff input (fun m => weights m n)]
    omega

/-- Settles O35: a vote above a threshold of its own parity is at least two above it. -/
theorem neighbouringThresholds : Obligations.NeighbouringThresholds := by
  intro M N O weights threshold next input n y x hnext
  obtain ⟨-, -, hparity⟩ := vote_range input (fun m => weights m n) y x
  refine ⟨fun h => ?_, fun h => ?_⟩
  · rw [Bool.eq_iff_iff, convMap_eq_true_iff, convMap_eq_true_iff]
    omega
  · rw [convMap_eq_true_iff, convMap_eq_false_iff]
    omega

/-- Settles O36: all bits of a window of zeros agree with a kernel of zeros; of ones, those off the border do. -/
theorem borderBitsCountAsMinusOne : Obligations.BorderBitsCountAsMinusOne := by
  refine ⟨fun y x => ?_, fun y x => ?_⟩
  · simp [vote_eq, agree, padMap_false, xnor]
  · rw [vote_eq, agree_padMap_true]
    split_ifs <;> omega

end Sys2Proof.Machine
end

section
/-! SUPPORT. What a buffer with a pooled map holds; the statements of 42_max_pool_reducer.md settled from it. -/

namespace Sys2Proof.Machine

/-- A buffer with a pooled map holds at each position the OR of its window (R160). -/
theorem get3_written3_poolMap {M Q : Nat} (a : Map3 Bool M (2 * Q) (2 * Q)) (m : Fin M) (y x : Fin Q) :
    ∃ v, get3 (written3 (poolMap a)) m y x = some v ∧
      (v = true ↔ ∃ Y X : Fin (2 * Q), Y.val / 2 = y.val ∧ X.val / 2 = x.val ∧ a m Y X = true) :=
  ⟨poolMap a m y x, get3_written3 .., poolMap_eq_true a m y x⟩

/-- Settles O16: a complete source is the map it holds, and what is written is that map pooled; an incomplete one makes the
read of the source fault. -/
theorem pool1OrsWindows : Obligations.Pool1OrsWindows := by
  refine ⟨rfl, fun s => ⟨fun a ha => ?_, onSource_readAll3_bot⟩⟩
  have hexec : exec .pool1 s = .next _ := execPool1_of_holds a (eq_written3_iff.2 ha)
  obtain ⟨hframe, hseq⟩ := exec_next_of_ne_load (by decide) hexec
  exact ⟨_, hexec, hseq, hframe, get3_written3_poolMap (Q := 8) a⟩

/-- Settles O17: as O16, for the second map. -/
theorem pool2OrsWindows : Obligations.Pool2OrsWindows := by
  refine ⟨rfl, fun s => ⟨fun a ha => ?_, onSource_readAll3_bot⟩⟩
  have hexec : exec .pool2 s = .next _ := execPool2_of_holds a (eq_written3_iff.2 ha)
  obtain ⟨hframe, hseq⟩ := exec_next_of_ne_load (by decide) hexec
  exact ⟨_, hexec, hseq, hframe, get3_written3_poolMap (Q := 4) a⟩

/-- Settles O40: the source bit that makes a pooled bit 1 is 1 in the raised map too, and lies in the same window. -/
theorem poolingIsMonotone : Obligations.PoolingIsMonotone := by
  intro M Q a a' hle m y x h
  obtain ⟨Y, X, hY, hX, hbit⟩ := (poolMap_eq_true a m y x).1 h
  exact (poolMap_eq_true a' m y x).2 ⟨Y, X, hY, hX, hle m Y X hbit⟩

end Sys2Proof.Machine
end

section
/-! SUPPORT. The inverse of the flat position and what a buffer with a flattened map holds; the statements of 43_flatten.md
settled from these. -/

namespace Sys2Proof.Machine

/-- Position `i` is that of element `(i mod 32, i div 128, (i div 32) mod 4)` (R170). -/
theorem flatIndex_div_mod (i : Fin 512) :
    flatIndex ⟨i.val % 32, by omega⟩ ⟨i.val / 128, by omega⟩ ⟨i.val / 32 % 4, by omega⟩ = i := by
  apply Fin.ext
  simp only [flatIndex]
  omega

theorem unflattenMap_flattenMap (a : Map3 Bool 32 4 4) : unflattenMap (flattenMap a) = a :=
  funext fun c => funext fun y => funext fun x => flattenMap_flatIndex a c y x

theorem flattenMap_unflattenMap (v : Fin 512 → Bool) : flattenMap (unflattenMap v) = v :=
  funext fun i => congrArg v (flatIndex_div_mod i)

/-- A buffer with a flattened map holds at position `c + (x + 4·y)·32` what a buffer with the map holds at `(c, y, x)`
(R171). -/
theorem get1_written1_flattenMap (a : Map3 Bool 32 4 4) {c : Fin 32} {y x : Fin 4} {i : Fin 512}
    (hi : i.val = c.val + (x.val + 4 * y.val) * 32) :
    get1 (written1 (flattenMap a)) i = get3 (written3 a) c y x := by
  obtain rfl : i = flatIndex c y x := Fin.ext hi
  rw [get1_written1, get3_written3, flattenMap_flatIndex]

/-- Settles O18: a complete source is the map it holds, and what is written is that map flattened, with no `⊥`; an incomplete
one makes the read of the source fault. -/
theorem flattenReindexes : Obligations.FlattenReindexes := by
  refine ⟨rfl, fun s => ⟨fun hfull => ?_, onSource_readAll3_bot⟩⟩
  obtain ⟨a, ha⟩ := exists_written3 hfull
  have hexec : exec .flatten s = .next _ := execFlatten_of_holds a ha
  obtain ⟨hframe, hseq⟩ := exec_next_of_ne_load (by decide) hexec
  have hcomplete : Full1 (written1 (flattenMap a)) := fun i => by rw [get1_written1, Option.isSome_some]
  rw [ha]
  exact ⟨_, hexec, hseq, hframe, hcomplete, fun _ _ _ _ => get1_written1_flattenMap a⟩

/-- Settles O42: the inverse index map is a right inverse of the flat position, which is injective. -/
theorem flattenIsABijection : Obligations.FlattenIsABijection :=
  ⟨fun _ _ _ _ _ _ => flatIndex_injective, fun i => ⟨_, _, _, flatIndex_div_mod i, rfl, rfl, rfl⟩,
    unflattenMap_flattenMap, flattenMap_unflattenMap⟩

end Sys2Proof.Machine
end

section
/-! SUPPORT. The number of agreements of an input and a weight column and the dense product: their extremes and their laws
under complement and under one flipped bit; the statements of 44_binarized_dense_matmul.md settled from these. -/

namespace Sys2Proof.Machine

/-! ## Agreement -/

section
variable {M : Nat} (input column : Fin M → Bool)

/-- No position agrees exactly when the input is the complement of the column. -/
theorem accum_eq_zero_iff : accum input column = 0 ↔ ∀ m, input m = !column m := by
  simp [accum, xnor_eq_zero]

/-- Complementing the input exchanges agreement and disagreement at every position (R188). -/
theorem accum_not_input_add : accum (fun m => !input m) column + accum input column = M := by
  simp [accum, ← Finset.sum_add_distrib, xnor_not_add]

/-- Complementing the column counts the same as complementing the input. -/
theorem accum_not_column : accum input (fun m => !column m) = accum (fun m => !input m) column :=
  Finset.sum_congr rfl fun m _ => by simpa using xnor_not_not (!input m) (column m)

/-- All positions agree exactly when none agrees with the complement of the input. -/
theorem accum_eq_size_iff : accum input column = M ↔ ∀ m, input m = column m := by
  have hadd := accum_not_input_add input column
  calc accum input column = M
      ↔ accum (fun m => !input m) column = 0 := by omega
    _ ↔ ∀ m, input m = column m := by simp only [accum_eq_zero_iff, Bool.not_inj_iff]

/-- Flipping the input bit at `i` exchanges agreement and disagreement at `i` and touches no other position (R188). -/
theorem accum_flip_add_xnor (i : Fin M) :
    accum (fun m => if m = i then !input m else input m) column + xnor (input i) (column i) =
      accum input column + xnor (!input i) (column i) := by
  have hrest : ∑ m ∈ Finset.univ.erase i, xnor (if m = i then !input m else input m) (column m) =
      ∑ m ∈ Finset.univ.erase i, xnor (input m) (column m) :=
    Finset.sum_congr rfl fun m hm => by rw [if_neg (Finset.ne_of_mem_erase hm)]
  simp only [accum, ← Finset.add_sum_erase _ _ (Finset.mem_univ i), hrest, if_true]
  omega

/-- Flipping one input bit gains or loses one agreement (R188). -/
theorem accum_flip (i : Fin M) :
    accum (fun m => if m = i then !input m else input m) column = accum input column + 1 ∨
      accum (fun m => if m = i then !input m else input m) column + 1 = accum input column := by
  have hflip := accum_flip_add_xnor input column i
  have hone := xnor_not_add (input i) (column i)
  omega

end

/-! ## The dense product -/

section
variable {M N : Nat} (weights : Fin M → Fin N → Bool) (input : Fin M → Bool) (n : Fin N)

theorem denseMap_eq : denseMap weights input n = 2 * accum input (fun m => weights m n) - M := rfl

/-- Each agreement adds 1 to the output and each disagreement takes 1 from it (R183). -/
theorem denseMap_eq_sum_signedUnit :
    denseMap weights input n = ∑ m : Fin M, signedUnit (input m) * signedUnit (weights m n) := by
  simp only [signedUnit_mul, Finset.sum_sub_distrib, ← Finset.mul_sum]
  simp [denseMap_eq, accum]

/-- The output with its agreements counted in ℤ. -/
theorem denseMap_eq_sum_ite :
    denseMap weights input n = 2 * (∑ m : Fin M, if input m = weights m n then (1 : Int) else 0) - M := by
  simp only [denseMap_eq, accum, xnor, Nat.cast_sum, Nat.cast_ite, Nat.cast_one, Nat.cast_zero]

theorem denseMap_not_input : denseMap weights (fun m => !input m) n = -denseMap weights input n := by
  have hadd := accum_not_input_add input fun m => weights m n
  rw [denseMap_eq, denseMap_eq]
  omega

/-- Complementing column `n` gives at `n` what complementing the input gives there. -/
theorem denseMap_not_column :
    denseMap (fun m k => if k = n then !weights m k else weights m k) input n = -denseMap weights input n := by
  rw [← denseMap_not_input, denseMap_eq, denseMap_eq, ← accum_not_column]
  simp only [if_true]

end

/-! ## The statements settled -/

/-- Settles O19: a complete source is the vector it holds, and what is written is that vector's dense product over 512
positions; an incomplete one makes the read of the source fault. -/
theorem dense1CountsAgreement : Obligations.Dense1CountsAgreement := by
  refine ⟨rfl, fun s => ⟨fun v hv => ?_, onSource_readAll1_bot⟩⟩
  have hexec : exec .dense1 s = .next _ := execDense1_of_holds v (eq_written1_iff.2 hv)
  obtain ⟨hframe, hseq⟩ := exec_next_of_ne_load (by decide) hexec
  refine ⟨_, hexec, hseq, hframe, fun n => ?_⟩
  rw [get1_written1, denseMap_eq_sum_ite]
  rfl

/-- Settles O20: as O19, over 256 positions. -/
theorem dense2CountsAgreement : Obligations.Dense2CountsAgreement := by
  refine ⟨rfl, fun s => ⟨fun v hv => ?_, onSource_readAll1_bot⟩⟩
  have hexec : exec .dense2 s = .next _ := execDense2_of_holds v (eq_written1_iff.2 hv)
  obtain ⟨hframe, hseq⟩ := exec_next_of_ne_load (by decide) hexec
  refine ⟨_, hexec, hseq, hframe, fun n => ?_⟩
  rw [get1_written1, denseMap_eq_sum_ite]
  rfl

/-- Settles O37: the widths from the ranges at 512 positions and at 256. -/
theorem denseRangesAndParity : Obligations.DenseRangesAndParity := by
  intro M N weights input n
  have haccum := accum_le input fun m => weights m n
  obtain ⟨hleast, hlargest, hparity⟩ := denseMap_range weights input n
  refine ⟨haccum, hleast, hlargest, hparity, denseMap_eq_sum_signedUnit weights input n, fun hM => ?_, fun hM => ?_⟩ <;> omega

/-- Settles O38: the output is largest where all positions agree and least where none does. -/
theorem denseExtremeOutputs : Obligations.DenseExtremeOutputs := by
  intro M N weights input n
  have hdense := denseMap_eq weights input n
  refine ⟨?_, ?_, by omega, fun k hk => by simp only [denseMap_eq, hk]⟩
  · rw [← accum_eq_size_iff input fun m => weights m n]
    omega
  · rw [← accum_eq_zero_iff input fun m => weights m n]
    omega

/-- Settles O39: complementing both negates the output twice; a flipped bit moves the count of agreements by one, and the
output by twice that. -/
theorem denseComplementSymmetry : Obligations.DenseComplementSymmetry := by
  intro M N weights input n
  refine ⟨denseMap_not_input weights input n, denseMap_not_column weights input n, ?_, fun i => ?_⟩
  · rw [denseMap_not_column, denseMap_not_input, neg_neg]
  · have hflip := accum_flip input (fun m => weights m n) i
    rw [denseMap_eq, denseMap_eq]
    omega

end Sys2Proof.Machine
end

section
/-! SUPPORT. What a buffer with a binarised vector holds; the statement of 45_sign_activation.md settled from it. -/

namespace Sys2Proof.Machine

/-- A buffer with a binarised vector holds 1 exactly where the input is strictly positive (R195). -/
theorem get1_written1_signMap {M : Nat} (v : Fin M → Int) (m : Fin M) :
    get1 (written1 (signMap v)) m = some (decide (0 < v m)) := get1_written1 ..

/-- Settles O21: a complete source is the vector it holds, and what is written is that vector binarised; an incomplete one
makes the read of the source fault. -/
theorem signIsStrictlyPositive : Obligations.SignIsStrictlyPositive := by
  refine ⟨rfl, fun s => ⟨fun v hv => ?_, onSource_readAll1_bot⟩⟩
  have hexec : exec .sign s = .next _ := execSign_of_holds v (eq_written1_iff.2 hv)
  obtain ⟨hframe, hseq⟩ := exec_next_of_ne_load (by decide) hexec
  exact ⟨_, hexec, hseq, hframe, get1_written1_signMap v⟩

end Sys2Proof.Machine
end

section
/-! SUPPORT. The scan of `ARGMAX` as the library's first maximum of a list, and the one index it selects; the statements of
46_argmax_classifier.md settled from these. -/

namespace Sys2Proof.Machine

/-- After the scan of `l` from element `k`, the pair holds the first maximum of `k :: l` and its score. -/
theorem foldl_argmaxStep (v : Fin 10 → Int) (k : Fin 10) (l : List (Fin 10)) :
    ∃ i ∈ (k :: l).argmax v, l.foldl (argmaxStep v) (v k, k) = (v i, i) := by
  induction l using List.reverseRecOn with
  | nil => exact ⟨k, List.argmax_singleton, rfl⟩
  | append_singleton l j ih =>
    obtain ⟨i, hi, hscan⟩ := ih
    rw [← List.cons_append, List.argmax_concat, Option.mem_def.1 hi, List.foldl_concat, hscan]
    by_cases hlt : v i < v j
    · exact ⟨j, if_pos hlt, argmaxStep_of_lt hlt⟩
    · exact ⟨i, if_neg hlt, argmaxStep_of_le (not_lt.1 hlt)⟩

theorem argmax_finRange (v : Fin 10 → Int) : (List.finRange 10).argmax v = some (argmaxIndex v) := by
  obtain ⟨i, hi, hscan⟩ := foldl_argmaxStep v 0 [1, 2, 3, 4, 5, 6, 7, 8, 9]
  rw [argmaxIndex, hscan]
  exact hi

/-- The selected index is the least one at which the maximum of the scores is attained (R200). -/
theorem argmaxIndex_eq_iff {v : Fin 10 → Int} {i : Fin 10} :
    argmaxIndex v = i ↔ (∀ j, v j ≤ v i) ∧ ∀ j, j < i → v j < v i := by
  have hleast (j : Fin 10) : (v i ≤ v j → i ≤ j) ↔ (j < i → v j < v i) := by
    rw [← not_lt, ← not_lt, not_imp_not]
  rw [← Option.some_inj, ← argmax_finRange, List.argmax_eq_some_iff]
  simp [hleast]

/-- Settles O22: what is written is the code of the selected index, which is the least one of the maximum; an incomplete
source makes its read fault. -/
theorem argmaxSelectsLowestMaximum : Obligations.ArgmaxSelectsLowestMaximum := by
  refine ⟨rfl, fun s => ⟨fun v hv => ?_, onSource_readAll1_bot⟩⟩
  have hexec : exec .argmax s = .next _ := execArgmax_of_holds v (eq_written1_iff.2 hv)
  obtain ⟨hframe, hseq⟩ := exec_next_of_ne_load (by decide) hexec
  exact ⟨_, hexec, hseq, hframe, _, argmaxIndex v, rfl, classCode_toNat _, argmaxIndex_eq_iff.1 rfl⟩

/-- Settles O41: a strictly increasing map keeps the order of the scores, so the least index of the maximum
stays the same one. -/
theorem argmaxKeepsUnderIncreasingMaps : Obligations.ArgmaxKeepsUnderIncreasingMaps := by
  intro v g hg
  have hmono : StrictMono g := fun p q => hg p q
  obtain ⟨hmax, hleast⟩ := argmaxIndex_eq_iff.1 (rfl : argmaxIndex v = _)
  exact argmaxIndex_eq_iff.2 ⟨fun j => hmono.monotone (hmax j), fun j hj => hg _ _ (hleast j hj)⟩

end Sys2Proof.Machine
end

section
/-! SUPPORT. The history of a run: the results that a list of pushed words gives, the image that pushed words carry, and what
each action does to the words answered and in progress; the statements of 47_network_inference_pipeline.md on the history
invariant settled from these. -/

namespace Sys2Proof.Machine

/-! ## The results of a list of words -/

/-- Eight words at a time, as R226 counts: a list too short for an image, or the eight words of one and then a list. -/
theorem eight_words_induction {P : List Word → Prop} (short : ∀ l, l.length < 8 → P l)
    (eight : ∀ (words : Vector Word 8) (rest : List Word), P rest → P (words.toList ++ rest)) (l : List Word) : P l := by
  induction hn : l.length using Nat.strong_induction_on generalizing l with
  | _ n ih =>
    by_cases h : l.length < 8
    · exact short l h
    · have hsplit := eight ⟨(l.take 8).toArray, by simpa using h⟩ (l.drop 8)
        (ih _ (by simp only [List.length_drop]; omega) _ rfl)
      simpa using hsplit

section
variable {b : Nat} (cfg : Config.Store b)

theorem resultsFor_of_length_lt {l : List Word} (h : l.length < 8) : resultsFor cfg l = [] := by
  unfold resultsFor
  split
  · simp only [List.length_cons] at h
    omega
  · rfl

theorem resultsFor_eight_words (words : Vector Word 8) (rest : List Word) :
    resultsFor cfg (words.toList ++ rest) =
      resultWord (classCode (classify cfg (unpack words))) :: resultsFor cfg rest := by
  obtain ⟨⟨l⟩, hl⟩ := words
  match l, hl with
  | [_, _, _, _, _, _, _, _], _ => rfl

/-- After complete images the framing starts anew (R223). -/
theorem resultsFor_append {before : List Word} (hframed : before.length % 8 = 0) (l : List Word) :
    resultsFor cfg (before ++ l) = resultsFor cfg before ++ resultsFor cfg l := by
  induction before using eight_words_induction with
  | short before h =>
    obtain rfl : before = [] := List.length_eq_zero_iff.1 (by omega)
    rfl
  | eight words rest ih =>
    have hrest : rest.length % 8 = 0 := by simpa using hframed
    rw [List.append_assoc, resultsFor_eight_words, resultsFor_eight_words, ih hrest, List.cons_append]

/-- Words of an incomplete image add no result. -/
theorem resultsFor_append_of_length_lt {before current : List Word} (hframed : before.length % 8 = 0)
    (hcurrent : current.length < 8) : resultsFor cfg (before ++ current) = resultsFor cfg before := by
  rw [resultsFor_append cfg hframed, resultsFor_of_length_lt cfg hcurrent, List.append_nil]

/-- Further words only add results at the end. -/
theorem resultsFor_prefix_append (l l' : List Word) : resultsFor cfg l <+: resultsFor cfg (l ++ l') := by
  induction l using eight_words_induction with
  | short l h => simp [resultsFor_of_length_lt cfg h]
  | eight words rest ih =>
    rw [List.append_assoc, resultsFor_eight_words, resultsFor_eight_words]
    exact List.cons_prefix_cons.2 ⟨rfl, ih⟩

theorem length_resultsFor (l : List Word) : (resultsFor cfg l).length = l.length / 8 := by
  induction l using eight_words_induction with
  | short l h => simp [resultsFor_of_length_lt cfg h, Nat.div_eq_of_lt h]
  | eight words rest ih =>
    simp only [resultsFor_eight_words, List.length_cons, List.length_append, Vector.length_toList, ih]
    omega

end

/-! ## The image in progress -/

/-- The image that words carry (R63), whose pixels are 0 where there is no word yet. -/
def imageOf (words : List Word) : Image := fun _ y x =>
  (words.getD ((16 * y.val + x.val) / 32) 0).getLsbD ((16 * y.val + x.val) % 32)

theorem imageOf_toList (words : Vector Word 8) : imageOf words.toList = unpack words := by
  funext c y x
  have h : (16 * y.val + x.val) / 32 < words.toList.length := by rw [Vector.length_toList]; omega
  simp only [imageOf, List.getD_eq_getElem _ _ h]
  rfl

/-- The pixels of the first words stay as further words come. -/
theorem State.HoldsPixels.imageOf_append {s : State} {words : List Word} (h : s.HoldsPixels (imageOf words) words.length)
    (more : List Word) : s.HoldsPixels (imageOf (words ++ more)) words.length := by
  intro c y x hlt
  rw [h c y x hlt, imageOf, imageOf, List.getD_append _ _ _ _ (by omega)]

/-- One more word of the image in progress, which is complete after eight (R215, R223). -/
theorem consumeWord_imageOf {s : State} {words : List Word} (hseq : s.seq = 0) (hlen : words.length = s.wcnt.toNat)
    (hpixels : s.HoldsPixels (imageOf words) s.wcnt.toNat) (w : Word) :
    ((consumeWord w s).seq = 0 ∧ (words ++ [w]).length = (consumeWord w s).wcnt.toNat ∧
      (consumeWord w s).HoldsPixels (imageOf (words ++ [w])) (consumeWord w s).wcnt.toNat) ∨
    ((consumeWord w s).seq = 1 ∧ (consumeWord w s).wcnt = 0 ∧ (words ++ [w]).length = 8 ∧
      (consumeWord w s).Computes (imageOf (words ++ [w]))) := by
  have hpixels' : (consumeWord w s).HoldsPixels (imageOf (words ++ [w])) (s.wcnt.toNat + 1) :=
    State.HoldsPixels.consumeWord (hlen ▸ (hlen ▸ hpixels).imageOf_append [w]) fun c y x hp => by simp [imageOf, hp, ← hlen]
  have hwcnt := consumeWord_wcnt_toNat w s
  have hlt := s.wcnt.isLt
  rw [List.length_append, List.length_singleton, hlen]
  by_cases h7 : s.wcnt = 7
  · have h7' : s.wcnt.toNat = 7 := congrArg BitVec.toNat h7
    have hseq' : (consumeWord w s).seq = 1 := by rw [consumeWord_seq, if_pos h7]
    exact .inr ⟨hseq', by rw [consumeWord_wcnt, if_pos h7], by omega,
      .of_img (by rw [hseq']; decide) fun c y x => hpixels' c y x (by omega)⟩
  · have h7' : s.wcnt.toNat ≠ 7 := fun h => h7 (BitVec.eq_of_toNat_eq h)
    have hnext : (consumeWord w s).wcnt.toNat = s.wcnt.toNat + 1 := by omega
    rw [hnext]
    exact .inl ⟨by rw [consumeWord_seq, if_neg h7, hseq], rfl, hpixels'⟩

/-- The stages done so far do not depend on the streams. -/
theorem State.Computes.of_streams {s : State} {a : Image} (h : s.Computes a) (q o : List Word) :
    ({ s with inQ := q, outQ := o } : State).Computes a :=
  ⟨h.img, h.padbuf1, h.fmC1, h.fmP1, h.padbuf2, h.fmC2, h.fmP2, h.flat, h.dv1, h.act1, h.dv2, h.result⟩

/-! ## The history under each action -/

section
variable {r : Run} {before current : List Word}

theorem Run.Tracks.holdsPixels (h : r.Tracks before current) (h0 : r.inst.state.seq = 0) :
    r.inst.state.HoldsPixels (imageOf current) r.inst.state.wcnt.toNat := by
  intro c y x hlt
  rw [Subsingleton.elim c 0]
  exact (h.loading h0).2 y x hlt

/-- An action that changes only the streams keeps the history of a run, when what it appends to `IN_Q` is counted as pushed
and what it takes from `OUT_Q` as popped. -/
theorem Run.Tracks.of_streams (h : r.Tracks before current) {q o pushed popped : List Word}
    (hpushed : pushed = before ++ current ++ q) (hemitted : popped ++ o = r.emitted) :
    Run.Tracks { inst := { r.inst with state := { r.inst.state with inQ := q, outQ := o } }, pushed, popped }
      before current where
  noFault := h.noFault
  seqLegal := h.seqLegal
  pushed := hpushed
  framed := h.framed
  emitted := hemitted.trans h.emitted
  loading := h.loading
  running hne := by
    obtain ⟨hwcnt, words, hcurrent, hcomp⟩ := h.running hne
    exact ⟨hwcnt, words, hcurrent, hcomp.of_streams q o⟩

theorem Run.Tracks.hostPush (h : r.Tracks before current) (w : Word) :
    (r.act (.hostPush w)).Tracks before current :=
  h.of_streams (by rw [h.pushed, List.append_assoc]) rfl

theorem Run.Tracks.hostPop (h : r.Tracks before current) : (r.act .hostPop).Tracks before current := by
  cases hout : r.inst.state.outQ with
  | nil => rwa [Run.act_hostPop_nil hout]
  | cons w rest =>
    rw [Run.act_hostPop_cons hout]
    exact h.of_streams h.pushed (by rw [Run.emitted, hout, List.append_assoc]; rfl)

/-- The word that `LOAD` consumes becomes one of the image in progress (R215). -/
theorem Run.Tracks.load (h : r.Tracks before current) (h0 : r.inst.state.seq = 0) {w : Word} {rest : List Word}
    (hq : r.inst.state.inQ = w :: rest) : (r.act .engineStep).Tracks before (current ++ [w]) := by
  have hnext := consumeWord_imageOf (s := { r.inst.state with inQ := rest }) h0 (h.loading h0).1 (h.holdsPixels h0) w
  have hpushed : r.pushed = before ++ (current ++ [w]) ++ (consumeWord w { r.inst.state with inQ := rest }).inQ := by
    simp [h.pushed, hq]
  have hemitted : r.popped ++ (consumeWord w { r.inst.state with inQ := rest }).outQ = resultsFor Config.store before := by
    rw [consumeWord_outQ]
    exact h.emitted
  rw [Run.act_engineStep_next h.noFault (step_load h0 hq)]
  obtain ⟨h0', hlen, hpixels⟩ | ⟨h1, hwcnt, hlen, hcomp⟩ := hnext
  · exact ⟨rfl, by simp [h0'], hpushed, h.framed, hemitted, fun _ => ⟨hlen, fun y x => hpixels 0 y x⟩,
      fun hne => absurd h0' hne⟩
  · exact ⟨rfl, by simp [h1], hpushed, h.framed, hemitted, fun h0' => by simp [h1] at h0',
      fun _ => ⟨hwcnt, ⟨(current ++ [w]).toArray, hlen⟩, rfl, imageOf_toList _ ▸ hcomp⟩⟩

/-- A stage belongs to the image in progress (R211). -/
theorem Run.Tracks.stage (h : r.Tracks before current) (hpos : 0 < r.inst.state.seq.toNat)
    (hlt : r.inst.state.seq.toNat < 12) : (r.act .engineStep).Tracks before current := by
  have hne : r.inst.state.seq ≠ 0 := fun h0 => by simp [h0] at hpos
  obtain ⟨hwcnt, words, hcurrent, hcomp⟩ := h.running hne
  obtain ⟨t, ht, hcomp', hseq, hwcnt', hinQ, houtQ⟩ := hcomp.next hpos hlt
  rw [Run.act_engineStep_next h.noFault ht]
  exact
    { noFault := rfl
      seqLegal := by dsimp only; omega
      pushed := by rw [h.pushed, ← hinQ]
      framed := h.framed
      emitted := (congrArg (r.popped ++ ·) houtQ).trans h.emitted
      loading := fun h0 => absurd (hseq.symm.trans (congrArg BitVec.toNat h0)) (Nat.succ_ne_zero _)
      running := fun _ => ⟨hwcnt'.trans hwcnt, words, hcurrent, hcomp'⟩ }

/-- `EMIT` answers the image in progress (R219, R226). -/
theorem Run.Tracks.emit (h : r.Tracks before current) (hseq : r.inst.state.seq = encode .emit) :
    (r.act .engineStep).Tracks (before ++ current) [] := by
  obtain ⟨hwcnt, words, rfl, hcomp⟩ := h.running (by rw [hseq]; decide)
  have hresult : resultsFor Config.store words.toList =
      [resultWord (classCode (classify Config.store (unpack words)))] := by
    simpa [resultsFor] using resultsFor_eight_words Config.store words []
  rw [Run.act_engineStep_next h.noFault (hcomp.emits hseq)]
  exact
    { noFault := rfl
      seqLegal := Nat.zero_le _
      pushed := by rw [List.append_nil]; exact h.pushed
      framed := by simpa using h.framed
      emitted := by
        rw [resultsFor_append _ h.framed, ← h.emitted, hresult]
        simp [Run.emitted]
      loading := fun _ => by
        dsimp only [State.pushOut]
        rw [hwcnt]
        exact ⟨rfl, fun y x hlt => absurd hlt (Nat.not_lt_zero _)⟩
      running := fun hne => absurd rfl hne }

theorem Run.Tracks.engineStep (h : r.Tracks before current) : (r.act .engineStep).Consistent := by
  have hlegal := h.seqLegal
  by_cases h0 : r.inst.state.seq = 0
  · cases hq : r.inst.state.inQ with
    | nil =>
      rw [Run.act_of_not_enabled hlegal (by simp [Run.enabled, State.stepEnabled, h0, hq])]
      exact ⟨before, current, h⟩
    | cons w rest => exact ⟨before, current ++ [w], h.load h0 hq⟩
  · by_cases h12 : r.inst.state.seq = encode .emit
    · exact ⟨before ++ current, [], h.emit h12⟩
    · have hpos : r.inst.state.seq.toNat ≠ 0 := fun h => h0 (BitVec.eq_of_toNat_eq h)
      have hlt : r.inst.state.seq.toNat ≠ 12 := fun h => h12 (BitVec.eq_of_toNat_eq h)
      exact ⟨before, current, h.stage (by omega) (by omega)⟩

end

/-- Settles O53: the host's actions touch only the streams; an engine step loads a word of the image in progress, performs a
stage of it, answers it, or holds. -/
theorem actionsKeepRunsConsistent : Obligations.ActionsKeepRunsConsistent := by
  rintro r a ⟨before, current, h⟩
  cases a with
  | engineStep => exact h.engineStep
  | hostPush w => exact ⟨before, current, h.hostPush w⟩
  | hostPop => exact ⟨before, current, h.hostPop⟩

/-- Settles O9: after reset nothing was pushed or emitted, and no pixel is claimed. -/
theorem resetRunIsConsistent : Obligations.ResetRunIsConsistent :=
  ⟨[], [], rfl, by decide, rfl, rfl, rfl, fun _ => ⟨rfl, fun _ _ h => absurd h (Nat.not_lt_zero _)⟩, fun h => absurd rfl h⟩

end Sys2Proof.Machine
end

section
/-! SUPPORT. Progress of the engine: the invariant of 70_reset_and_hazards.md R281 under a step, the work each enabled step
takes off, and the steps of one classification; the statements of 47_network_inference_pipeline.md on `LOAD`, `EMIT` and
bounded progress settled from these. -/

namespace Sys2Proof.Machine

/-! ## The invariant under a step -/

/-- The source of the operation `i` holds what the operation reads: for `LOAD` the pixels of the words already consumed, for
every other operation the whole of its source (R281). -/
def State.SourceDefined (s : State) : Instr → Prop
  | .load => ∀ y x : Fin 16, 16 * y.val + x.val < 32 * s.wcnt.toNat → (get3 s.img 0 y x).isSome
  | .pad1 => Full3 s.img
  | .conv1 => Full3 s.padbuf1
  | .pool1 => Full3 s.fmC1
  | .pad2 => Full3 s.fmP1
  | .conv2 => Full3 s.padbuf2
  | .pool2 => Full3 s.fmC2
  | .flatten => Full3 s.fmP2
  | .dense1 => Full1 s.flat
  | .sign => Full1 s.dv1
  | .dense2 => Full1 s.act1
  | .argmax => Full1 s.dv2
  | .emit => s.result.isSome

/-- The invariant of R281 speaks of the one operation that is next. -/
theorem State.ready_iff {s : State} :
    s.Ready ↔ ∃ i, s.seq = encode i ∧ (i ≠ .load → s.wcnt = 0) ∧ s.SourceDefined i := by
  constructor
  · intro h
    obtain ⟨i, hi⟩ := exists_eq_encode_iff.2 h.seqLegal
    refine ⟨i, hi, fun hne => h.wcntIdle (by rwa [hi, ne_eq, encode_eq_zero_iff]), ?_⟩
    cases i with
    | load => exact h.loaded hi
    | pad1 => exact h.img hi
    | conv1 => exact h.padbuf1 hi
    | pool1 => exact h.fmC1 hi
    | pad2 => exact h.fmP1 hi
    | conv2 => exact h.padbuf2 hi
    | pool2 => exact h.fmC2 hi
    | flatten => exact h.fmP2 hi
    | dense1 => exact h.flat hi
    | sign => exact h.dv1 hi
    | dense2 => exact h.act1 hi
    | argmax => exact h.dv2 hi
    | emit => exact h.result hi
  · rintro ⟨i, hi, hwcnt, hsource⟩
    have hnext : ∀ j, s.seq = encode j → s.SourceDefined j := fun j hj => encode_injective (hi.symm.trans hj) ▸ hsource
    exact ⟨hi ▸ encode_toNat_le i, fun hne => hwcnt (by rwa [hi, ne_eq, encode_eq_zero_iff] at hne), hnext .load, hnext .pad1,
      hnext .conv1, hnext .pool1, hnext .pad2, hnext .conv2, hnext .pool2, hnext .flatten, hnext .dense1, hnext .sign,
      hnext .dense2, hnext .argmax, hnext .emit⟩

theorem full3_of_eq_written3 {C H W : Nat} {b : BitBuffer C H W} {f : Map3 Bool C H W} (h : b = written3 f) : Full3 b :=
  fun c y x => Option.isSome_iff_exists.2 ⟨_, eq_written3_iff.1 h c y x⟩

theorem full1_of_eq_written1 {α : Type} {n : Nat} {b : VecBuffer α n} {f : Fin n → α} (h : b = written1 f) : Full1 b :=
  fun i => Option.isSome_iff_exists.2 ⟨_, eq_written1_iff.1 h i⟩

/-- The operation after `i` in the pipeline. -/
def following : Instr → Instr
  | .load => .pad1
  | .pad1 => .conv1
  | .conv1 => .pool1
  | .pool1 => .pad2
  | .pad2 => .conv2
  | .conv2 => .pool2
  | .pool2 => .flatten
  | .flatten => .dense1
  | .dense1 => .sign
  | .sign => .dense2
  | .dense2 => .argmax
  | .argmax => .emit
  | .emit => .load

theorem encode_following {i : Instr} (hi : i ≠ .load) : encode (following i) = seqAfter (encode i) := by
  cases i with
  | load => exact absurd rfl hi
  | _ => rfl

/-- An operation other than `LOAD` with its source defined steps, and its destination is the source of the next. -/
theorem exec_next_of_sourceDefined {s : State} {i : Instr} (hi : i ≠ .load) (hwcnt : s.wcnt = 0) (h : s.SourceDefined i) :
    ∃ t, exec i s = .next t ∧ t.SourceDefined (following i) := by
  cases i with
  | load => exact absurd rfl hi
  | pad1 => obtain ⟨a, ha⟩ := exists_written3 h; exact ⟨_, execPad1_of_holds a ha, full3_of_eq_written3 rfl⟩
  | conv1 => obtain ⟨a, ha⟩ := exists_written3 h; exact ⟨_, execConv1_of_holds a ha, full3_of_eq_written3 rfl⟩
  | pool1 => obtain ⟨a, ha⟩ := exists_written3 h; exact ⟨_, execPool1_of_holds a ha, full3_of_eq_written3 rfl⟩
  | pad2 => obtain ⟨a, ha⟩ := exists_written3 h; exact ⟨_, execPad2_of_holds a ha, full3_of_eq_written3 rfl⟩
  | conv2 => obtain ⟨a, ha⟩ := exists_written3 h; exact ⟨_, execConv2_of_holds a ha, full3_of_eq_written3 rfl⟩
  | pool2 => obtain ⟨a, ha⟩ := exists_written3 h; exact ⟨_, execPool2_of_holds a ha, full3_of_eq_written3 rfl⟩
  | flatten => obtain ⟨a, ha⟩ := exists_written3 h; exact ⟨_, execFlatten_of_holds a ha, full1_of_eq_written1 rfl⟩
  | dense1 => obtain ⟨v, hv⟩ := exists_written1 h; exact ⟨_, execDense1_of_holds v hv, full1_of_eq_written1 rfl⟩
  | sign => obtain ⟨v, hv⟩ := exists_written1 h; exact ⟨_, execSign_of_holds v hv, full1_of_eq_written1 rfl⟩
  | dense2 => obtain ⟨v, hv⟩ := exists_written1 h; exact ⟨_, execDense2_of_holds v hv, full1_of_eq_written1 rfl⟩
  | argmax => obtain ⟨v, hv⟩ := exists_written1 h; exact ⟨_, execArgmax_of_holds v hv, rfl⟩
  | emit =>
    obtain ⟨r, hr⟩ := Option.isSome_iff_exists.1 h
    refine ⟨_, execEmit_of_holds r hr, fun y x hlt => ?_⟩
    exact absurd hlt (by simp [hwcnt])

/-- Consuming a word defines its own pixels and keeps those of the words before it. -/
theorem consumeWord_pixels {s : State} (w : Word)
    (h : ∀ y x : Fin 16, 16 * y.val + x.val < 32 * s.wcnt.toNat → (get3 s.img 0 y x).isSome) (y x : Fin 16)
    (hlt : 16 * y.val + x.val < 32 * (s.wcnt.toNat + 1)) : (get3 (consumeWord w s).img 0 y x).isSome := by
  rw [consumeWord_img, get3_writePixels]
  by_cases hk : (16 * y.val + x.val) / 32 = s.wcnt.toNat
  · rw [if_pos hk, Option.isSome_some]
  · have hbefore : 16 * y.val + x.val < 32 * s.wcnt.toNat := by omega
    have h0 : s.wcnt ≠ 0 := fun h0 => by simp [h0] at hbefore
    rw [if_neg hk, if_neg h0]
    exact h y x hbefore

theorem consumeWord_ready {s : State} (hseq : s.seq = 0) (h : s.SourceDefined .load) (w : Word) : (consumeWord w s).Ready := by
  have hpixels := consumeWord_pixels w h
  by_cases h7 : s.wcnt = 7
  · refine State.ready_iff.2 ⟨.pad1, by rw [consumeWord_seq, if_pos h7]; rfl, fun _ => by rw [consumeWord_wcnt, if_pos h7],
      fun c y x => ?_⟩
    rw [Subsingleton.elim c 0]
    exact hpixels y x (by simp [h7]; omega)
  · refine State.ready_iff.2 ⟨.load, by rw [consumeWord_seq, if_neg h7]; exact hseq, fun hne => absurd rfl hne,
      fun y x hlt => hpixels y x (hlt.trans_le ?_)⟩
    rw [consumeWord_wcnt_toNat]
    omega

/-- R281: from a state of the invariant the step answers a state of the invariant. -/
theorem State.Ready.next {s : State} (h : s.Ready) : ∃ t, step s = .next t ∧ t.Ready := by
  obtain ⟨i, hi, hwcnt, hsource⟩ := State.ready_iff.1 h
  by_cases hload : i = .load
  · subst hload
    cases hq : s.inQ with
    | nil => exact ⟨s, (step_of_seq_eq_encode hi).trans (execLoad_nil hq), h⟩
    | cons w rest => exact ⟨_, step_load hi hq, consumeWord_ready (s := { s with inQ := rest }) hi hsource w⟩
  · obtain ⟨t, ht, hnext⟩ := exec_next_of_sourceDefined hload (hwcnt hload) hsource
    obtain ⟨hframe, hseq⟩ := exec_next_of_ne_load hload ht
    exact ⟨t, (step_of_seq_eq_encode hi).trans ht, State.ready_iff.2
      ⟨following i, hseq.trans (encode_following hload).symm, fun _ => hframe.wcnt.trans (hwcnt hload), hnext⟩⟩

/-! ## Work -/

/-- The steps until `SEQ` = 0 is next: the rest of the classification in progress. -/
def State.stagesLeft (s : State) : Nat := if s.seq = 0 then 0 else 13 - s.seq.toNat

theorem State.remainingWork_eq (s : State) : s.remainingWork = 13 * s.inQ.length + s.stagesLeft := rfl

theorem State.stagesLeft_le (s : State) : s.stagesLeft ≤ 12 := by
  unfold State.stagesLeft
  split
  · decide
  · next h =>
    have : s.seq.toNat ≠ 0 := fun h0 => h (BitVec.eq_of_toNat_eq h0)
    omega

theorem State.stagesLeft_eq_zero_iff {s : State} (hlegal : s.seq.toNat ≤ 12) : s.stagesLeft = 0 ↔ s.seq = 0 := by
  unfold State.stagesLeft
  split
  · simp [*]
  · simp only [*, iff_false]
    omega

theorem State.quiescent_iff {s : State} : s.quiescent = true ↔ s.seq = 0 ∧ s.inQ = [] := by
  simp [State.quiescent]

/-- R213, R222: with a legal code, no step is enabled exactly when the engine is quiescent. -/
theorem State.quiescent_iff_not_stepEnabled {s : State} (hlegal : s.seq.toNat ≤ 12) :
    s.quiescent = true ↔ s.stepEnabled = false := by
  rw [State.quiescent_iff, State.stepEnabled]
  by_cases h0 : s.seq = 0
  · simp [h0]
  · simp only [h0, false_and, if_false]
    simp [hlegal]

theorem step_of_quiescent {s : State} (h : s.quiescent = true) : step s = .next s := by
  obtain ⟨hseq, hq⟩ := State.quiescent_iff.1 h
  exact (step_of_seq_eq_encode (i := .load) hseq).trans (execLoad_nil hq)

/-- R213: an enabled step consumes a word, or brings the classification in progress one stage further. -/
theorem step_work_cases {s t : State} (hen : s.stepEnabled = true) (h : step s = .next t) :
    (s.seq = 0 ∧ s.inQ.length = t.inQ.length + 1) ∨ (t.inQ = s.inQ ∧ s.stagesLeft = t.stagesLeft + 1) := by
  obtain ⟨i, hi, he⟩ := step_next_cases h
  by_cases hload : i = .load
  · subst hload
    have h0 : s.seq = 0 := hi
    obtain ⟨w, rest, hq, rfl⟩ | ⟨hq, -⟩ := execLoad_next_iff.1 he
    · exact .inl ⟨h0, by simp [hq]⟩
    · simp [State.stepEnabled, h0, hq] at hen
  · obtain ⟨hframe, hseq⟩ := exec_next_of_ne_load hload he
    refine .inr ⟨hframe.inQ (by cases i <;> decide), ?_⟩
    rw [State.stagesLeft, State.stagesLeft, hseq, hi]
    revert hload
    cases i <;> decide

/-- Every enabled step takes off at least one of the steps that remain. -/
theorem State.remainingWork_step_lt {s t : State} (hen : s.stepEnabled = true) (h : step s = .next t) :
    t.remainingWork < s.remainingWork := by
  have hle := t.stagesLeft_le
  rw [State.remainingWork_eq, State.remainingWork_eq]
  obtain ⟨-, hin⟩ | ⟨hin, hst⟩ := step_work_cases hen h
  · omega
  · rw [hin, hst]
    omega

theorem State.quiescent_of_remainingWork_eq_zero {s : State} (hlegal : s.seq.toNat ≤ 12) (h : s.remainingWork = 0) :
    s.quiescent = true := by
  rw [State.remainingWork_eq] at h
  exact State.quiescent_iff.2 ⟨(State.stagesLeft_eq_zero_iff hlegal).1 (by omega), List.length_eq_zero_iff.1 (by omega)⟩

/-- Without a further push the engine is quiescent once it has taken the steps that remain, and stays so (R222, R225). -/
theorem State.Ready.run_quiescent {s : State} (h : s.Ready) {k : Nat} (hk : s.remainingWork ≤ k) :
    ∃ t : State, Host.Core.run Sys2Proof.core k s = .next t ∧ t.quiescent = true := by
  induction k generalizing s with
  | zero => exact ⟨s, rfl, State.quiescent_of_remainingWork_eq_zero h.seqLegal (by omega)⟩
  | succ k ih =>
    obtain ⟨u, hu, hready⟩ := h.next
    have hwork : u.remainingWork ≤ k := by
      by_cases hen : s.stepEnabled = true
      · have := State.remainingWork_step_lt hen hu
        omega
      · have hquiet := (State.quiescent_iff_not_stepEnabled h.seqLegal).2 (by simpa using hen)
        obtain ⟨h0, hq⟩ := State.quiescent_iff.1 hquiet
        obtain rfl : s = u := by simpa using (step_of_quiescent hquiet).symm.trans hu
        simp [State.remainingWork, h0, hq]
    obtain ⟨t, ht, hquiet⟩ := ih hready hwork
    exact ⟨t, run_succ_next_iff.2 ⟨u, hu, ht⟩, hquiet⟩

/-- The classification in progress ends after as many steps as stages are left (R213). -/
theorem State.Ready.run_stagesLeft {s : State} (h : s.Ready) :
    ∃ t : State, Host.Core.run Sys2Proof.core s.stagesLeft s = .next t ∧ t.seq = 0 := by
  induction hn : s.stagesLeft generalizing s with
  | zero => exact ⟨s, rfl, (State.stagesLeft_eq_zero_iff h.seqLegal).1 hn⟩
  | succ n ih =>
    have hne : s.seq ≠ 0 := fun h0 => by simp [State.stagesLeft, h0] at hn
    obtain ⟨u, hu, hready⟩ := h.next
    have hen : s.stepEnabled = true := by rw [State.stepEnabled, if_neg hne, decide_eq_true h.seqLegal]
    obtain ⟨h0, -⟩ | ⟨-, hstages⟩ := step_work_cases hen hu
    · exact absurd h0 hne
    · obtain ⟨t, ht, hseq⟩ := ih hready (by omega)
      exact ⟨t, run_succ_next_iff.2 ⟨u, hu, ht⟩, hseq⟩

/-! ## One classification -/

/-- R211: from `PAD1` with a complete image, the state before each of the twelve steps. -/
theorem State.Computes.run {s : State} {a : Image} (hseq : s.seq = 1) (h : s.Computes a) {k : Nat} (hk : k < 12) :
    ∃ t : State, Host.Core.run Sys2Proof.core k s = .next t ∧ t.Computes a ∧ t.seq.toNat = k + 1 ∧ t.wcnt = s.wcnt ∧
      t.inQ = s.inQ ∧ t.outQ = s.outQ := by
  induction k with
  | zero => exact ⟨s, rfl, h, congrArg BitVec.toNat hseq, rfl, rfl, rfl⟩
  | succ k ih =>
    obtain ⟨u, hu, hcomp, hseq', hwcnt, hinQ, houtQ⟩ := ih (by omega)
    obtain ⟨t, ht, hcomp', hseq'', hwcnt', hinQ', houtQ'⟩ := hcomp.next (by omega) (by omega)
    exact ⟨t, run_succ_of_next hu ht, hcomp', by omega, hwcnt'.trans hwcnt, hinQ'.trans hinQ, houtQ'.trans houtQ⟩

/-! ## The statements settled -/

/-- Settles O10: field by field what consuming a word does, once it is popped. -/
theorem loadConsumesOneWord : Obligations.LoadConsumesOneWord := by
  intro s w rest hq
  refine ⟨_, execLoad_cons hq, consumeWord_inQ .., consumeWord_outQ .., fun j y x hp => ?_, fun y x hp => ?_, fun h0 => ?_,
    fun h0 => ?_, consumeWord_wcnt_toNat .., consumeWord_seq ..⟩
  · rw [consumeWord_img, get3_writePixels, if_pos (by dsimp only; omega)]
    congr 2
    omega
  · rw [consumeWord_img, get3_writePixels, if_neg hp]
    dsimp only
    split <;> simp
  · simp [consumeWord_result, consumeWord_padbuf1, consumeWord_fmC1, consumeWord_fmP1, consumeWord_padbuf2, consumeWord_fmC2,
      consumeWord_fmP2, consumeWord_flat, consumeWord_dv1, consumeWord_act1, consumeWord_dv2, h0]
  · simp only [consumeWord_result, consumeWord_padbuf1, consumeWord_fmC1, consumeWord_fmP1, consumeWord_padbuf2,
      consumeWord_fmC2, consumeWord_fmP2, consumeWord_flat, consumeWord_dv1, consumeWord_act1, consumeWord_dv2, if_neg h0,
      and_self]

/-- The bits above the class index of a result word are 0 (R96). -/
theorem extractLsb'_resultWord (r : BitVec 4) : (resultWord r).extractLsb' 4 28 = 0 := by
  revert r
  decide

/-- Settles O23: what `EMIT` pushes is the result word of `RESULT`, and an unwritten `RESULT` makes its read fault. -/
theorem emitSendsTheResultWord : Obligations.EmitSendsTheResultWord := by
  refine ⟨rfl, fun s => ⟨fun r hr => ?_, fun hr => ?_⟩⟩
  · have hexec : exec .emit s = .next _ := execEmit_of_holds r hr
    obtain ⟨hframe, hseq⟩ := exec_next_of_ne_load (by decide) hexec
    exact ⟨_, _, hexec, hseq, hframe, rfl, classOfWord_resultWord r, extractLsb'_resultWord r⟩
  · exact onSource_fault_iff.2 (readRegister_eq_error.2 ⟨hr, rfl⟩)

/-- Settles O30: a quiescent engine holds; an enabled step takes off work, so it does not answer the same state. -/
theorem holdsExactlyWhenQuiescent : Obligations.HoldsExactlyWhenQuiescent := by
  intro s h
  have hquiet := State.quiescent_iff_not_stepEnabled h.seqLegal
  refine ⟨⟨fun hs => hquiet.2 ?_, step_of_quiescent⟩, hquiet⟩
  by_contra hen
  exact (State.remainingWork_step_lt (by simpa using hen) hs).false

/-- Settles O48: eleven stages on the image and then `EMIT`. -/
theorem twelveStepsClassifyTheImage : Obligations.TwelveStepsClassifyTheImage := by
  intro s a hseq himg
  obtain ⟨u, hu, hcomp, hseq', hwcnt, hinQ, houtQ⟩ :=
    State.Computes.run hseq (.of_img (by rw [hseq]; decide) himg) (k := 11) (by decide)
  have hemit : u.seq = encode .emit := BitVec.eq_of_toNat_eq hseq'
  exact ⟨_, run_succ_of_next hu (hcomp.emits hemit), by rw [State.pushOut_outQ, houtQ], rfl, hwcnt, hinQ,
    hcomp.result (by omega)⟩

/-- Settles O49: by the state before each of the twenty steps and the state after the last. -/
theorem twentyStepsPerClassification : Obligations.TwentyStepsPerClassification := by
  intro s words rest hseq hwcnt hq
  refine ⟨fun k hk => ?_, ?_⟩
  · obtain ⟨u, hu, hc⟩ := (State.Classifies.start hseq hwcnt hq).run hk
    refine ⟨u, hu, hc.outQ, fun h8 => ?_, ?_⟩
    · rw [hc.inQ, List.drop_eq_nil_of_le (by simpa using h8), List.nil_append]
    · rw [hc.seq]
      split <;> omega
  · obtain ⟨t, ht, hseq', hwcnt', hinQ, houtQ⟩ := run_twenty_of_eight_words hseq hwcnt hq
    exact ⟨t, ht, houtQ, hseq', hwcnt', hinQ⟩

/-- Settles O51: at most twelve stages are left. -/
theorem reachesLoadInTwelveSteps : Obligations.ReachesLoadInTwelveSteps := by
  intro s h _
  obtain ⟨t, ht, hseq⟩ := h.run_stagesLeft
  exact ⟨_, t, s.stagesLeft_le, ht, hseq⟩

/-- Settles O52: every step that is enabled takes off work, and a quiescent engine holds. -/
theorem workEndsInQuiescence : Obligations.WorkEndsInQuiescence := fun _ _ h hk => h.run_quiescent hk

/-- Settles O3: a code that selects an operation is the code of that operation. -/
theorem stepPerformsSequencedOperation : Obligations.StepPerformsSequencedOperation := fun _ _ h =>
  step_of_seq_eq_encode (eq_encode_of_decodeSeq h)

/-- Settles O11: with no word to pop `LOAD` holds. -/
theorem loadHoldsWhenInputEmpty : Obligations.LoadHoldsWhenInputEmpty := fun _ => execLoad_nil

/-- Settles O56: field by field what the two actions of the host do. -/
theorem hostActionsTouchOnlyTheStreams : Obligations.HostActionsTouchOnlyTheStreams := by
  refine fun s => ⟨fun w => ⟨rfl, rfl, by constructor <;> simp⟩, fun hout => by simp [State.hostPop, hout],
    fun w rest hout => ?_⟩
  exact ⟨_, State.hostPop_eq_some_iff.2 ⟨rest, hout, rfl⟩, rfl, rfl, by constructor <;> simp⟩

end Sys2Proof.Machine
end

section
/-! SUPPORT. What the history of a consistent run says of the words emitted, that a consistent run's state meets the invariant
of 70_reset_and_hazards.md R281, and several instances; the statements of 47_network_inference_pipeline.md on finite runs
settled from these. -/

namespace Sys2Proof.Machine

/-! ## What a history says -/

section
variable {r : Run} {before current : List Word}

/-- The words consumed so far give no further result as long as the image in progress is incomplete. -/
theorem Run.Tracks.resultsFor_consumed (h : r.Tracks before current) (h0 : r.inst.state.seq = 0) :
    resultsFor Config.store (before ++ current) = r.emitted := by
  have hlen : current.length < 8 := (h.loading h0).1 ▸ r.inst.state.wcnt.isLt
  rw [resultsFor_append_of_length_lt _ h.framed hlen, h.emitted]

/-- R226: what was emitted is the beginning of what is expected. -/
theorem Run.Consistent.emitted_prefix (h : r.Consistent) : r.emitted <+: resultsFor Config.store r.pushed := by
  obtain ⟨before, current, h⟩ := h
  rw [h.emitted, h.pushed, List.append_assoc]
  exact resultsFor_prefix_append _ before _

/-- R226: a quiescent engine has emitted all that is expected. -/
theorem Run.Consistent.emitted_of_quiescent (h : r.Consistent) (hquiet : r.inst.state.quiescent = true) :
    r.emitted = resultsFor Config.store r.pushed := by
  obtain ⟨before, current, h⟩ := h
  obtain ⟨h0, hq⟩ := State.quiescent_iff.1 hquiet
  rw [h.pushed, hq, List.append_nil, h.resultsFor_consumed h0]

theorem Run.Consistent.noFault (h : r.Consistent) : r.inst.faultMark = none := by
  obtain ⟨_, _, h⟩ := h
  exact h.noFault

theorem Run.Consistent.acts (h : r.Consistent) (actions : List Action) : (r.acts actions).Consistent := by
  induction actions generalizing r with
  | nil => exact h
  | cons a actions ih => exact ih (actionsKeepRunsConsistent r a h)

/-! ## The invariant of a consistent run -/

/-- With the stages before the next operation done for an image, the source of that operation is defined (R281). -/
theorem State.Computes.ready {s : State} {a : Image} (h : s.Computes a) (hlegal : s.seq.toNat ≤ 12) (hne : s.seq ≠ 0)
    (hwcnt : s.wcnt = 0) : s.Ready := by
  obtain ⟨i, hi⟩ := exists_eq_encode_iff.2 hlegal
  have hpos : 0 < s.seq.toNat := Nat.pos_of_ne_zero fun h0 => hne (BitVec.eq_of_toNat_eq h0)
  have hdone := (State.computes_iff hpos).1 h
  rw [hi] at hdone
  refine State.ready_iff.2 ⟨i, hi, fun _ => hwcnt, ?_⟩
  cases i with
  | load => exact absurd hi hne
  | pad1 => exact full3_of_eq_written3 (hdone .load (by decide))
  | conv1 => exact full3_of_eq_written3 (hdone .pad1 (by decide))
  | pool1 => exact full3_of_eq_written3 (hdone .conv1 (by decide))
  | pad2 => exact full3_of_eq_written3 (hdone .pool1 (by decide))
  | conv2 => exact full3_of_eq_written3 (hdone .pad2 (by decide))
  | pool2 => exact full3_of_eq_written3 (hdone .conv2 (by decide))
  | flatten => exact full3_of_eq_written3 (hdone .pool2 (by decide))
  | dense1 => exact full1_of_eq_written1 (hdone .flatten (by decide))
  | sign => exact full1_of_eq_written1 (hdone .dense1 (by decide))
  | dense2 => exact full1_of_eq_written1 (hdone .sign (by decide))
  | argmax => exact full1_of_eq_written1 (hdone .dense2 (by decide))
  | emit => exact Option.isSome_iff_exists.2 ⟨_, hdone .argmax (by decide)⟩

theorem Run.Consistent.ready (h : r.Consistent) : r.inst.state.Ready := by
  obtain ⟨before, current, h⟩ := h
  by_cases h0 : r.inst.state.seq = 0
  · refine State.ready_iff.2 ⟨.load, h0, fun hne => absurd rfl hne, fun y x hlt => ?_⟩
    rw [(h.loading h0).2 y x hlt, Option.isSome_some]
  · obtain ⟨hwcnt, _, -, hcomp⟩ := h.running h0
    exact hcomp.ready h.seqLegal h0 hwcnt

/-- R225: engine steps alone lead a consistent run to a quiescent one, with the same words pushed. -/
theorem Run.Consistent.acts_engineStep_quiescent (h : r.Consistent) {k : Nat} (hk : r.inst.state.remainingWork ≤ k) :
    (r.acts (List.replicate k .engineStep)).inst.state.quiescent = true ∧
      (r.acts (List.replicate k .engineStep)).pushed = r.pushed := by
  obtain ⟨t, ht, hquiet⟩ := h.ready.run_quiescent hk
  rw [Run.acts_engineStep h.noFault ht]
  exact ⟨hquiet, rfl⟩

/-! ## Framing -/

/-- R223: the words of the image in progress are those after the last complete eight. -/
theorem Run.Tracks.pushed_of_quiescent (h : r.Tracks before current) (hquiet : r.inst.state.quiescent = true) :
    r.pushed = before ++ current ∧ before.length = 8 * (r.pushed.length / 8) ∧ current.length = r.pushed.length % 8 := by
  obtain ⟨h0, hq⟩ := State.quiescent_iff.1 hquiet
  have hpushed : r.pushed = before ++ current := by rw [h.pushed, hq, List.append_nil]
  have hlt : current.length < 8 := (h.loading h0).1 ▸ r.inst.state.wcnt.isLt
  have hframed := h.framed
  have hlen := congrArg List.length hpushed
  rw [List.length_append] at hlen
  exact ⟨hpushed, by omega, by omega⟩

end

/-! ## Several instances -/

/-- An action addressed to the run at `i` leaves every other run as it is (R227). -/
theorem getElem?_actOn (i : Nat) (a : Action) (instances : List Run) (j : Nat) :
    (actOn i a instances)[j]? = instances[j]?.map fun r => if i = j then r.act a else r := by
  rw [actOn, List.getElem?_modify]
  split <;> simp [*]

/-! ## The statements settled -/

/-- Settles O54: the run is consistent; the engine's steps alone make it quiescent, and then nothing expected is missing. -/
theorem observationOfARun : Obligations.ObservationOfARun := by
  intro actions
  have h := resetRunIsConsistent.acts actions
  refine ⟨h.noFault, h.emitted_prefix, h.emitted_of_quiescent, fun k hk => ?_⟩
  obtain ⟨hquiet, hpushed⟩ := h.acts_engineStep_quiescent hk
  rw [Run.acts_append]
  exact ⟨hquiet, hpushed ▸ (h.acts _).emitted_of_quiescent hquiet⟩

/-- Settles O55: the words of the image in progress are those after the last complete eight. -/
theorem framingIsByCount : Obligations.FramingIsByCount := by
  intro actions hquiet
  have hconsistent := resetRunIsConsistent.acts actions
  generalize Run.reset.acts actions = r at hquiet hconsistent ⊢
  have hemitted := hconsistent.emitted_of_quiescent hquiet
  obtain ⟨before, current, h⟩ := hconsistent
  obtain ⟨hlen, hpixels⟩ := h.loading (State.quiescent_iff.1 hquiet).1
  obtain ⟨hpushed, hbefore, hcurrent⟩ := h.pushed_of_quiescent hquiet
  refine ⟨hlen.symm.trans hcurrent, ?_, fun y x hlt => ?_⟩
  · rw [hemitted, length_resultsFor]
  · rw [hpixels y x (by omega), ← hbefore, hpushed, List.getD_append_right _ _ _ _ (by omega), Nat.add_sub_cancel_left]

/-- Settles O59: by induction on the events, each of which changes the one run it is addressed to. -/
theorem instancesDoNotInteract : Obligations.InstancesDoNotInteract := by
  intro events instances j
  induction events generalizing instances with
  | nil => simp [Run.acts]
  | cons e events ih =>
    rw [List.foldl_cons, ih, getElem?_actOn, Option.map_map]
    congr 1
    funext r
    by_cases he : e.1 = j
    · simp [he, Run.acts_cons]
    · simp [he]

end Sys2Proof.Machine
end

section
/-! SUPPORT. Weakly fair infinite runs (47_network_inference_pipeline.md R225): a measure that a fair action lowers reaches 0,
for the engine the work that given pushed words still need, for the host the answers not yet popped; the statement on fair runs
settled from these. -/

namespace Sys2Proof.Machine

/-! ## The history of a run only grows -/

/-- The history of `r` is the beginning of that of `r'`. -/
structure Run.Precedes (r r' : Run) : Prop where
  pushed : r.pushed <+: r'.pushed
  popped : r.popped <+: r'.popped
  emitted : r.emitted <+: r'.emitted

theorem Run.Precedes.refl (r : Run) : r.Precedes r := ⟨List.prefix_rfl, List.prefix_rfl, List.prefix_rfl⟩

theorem Run.Precedes.trans {r r' r'' : Run} (h : r.Precedes r') (h' : r'.Precedes r'') : r.Precedes r'' :=
  ⟨h.pushed.trans h'.pushed, h.popped.trans h'.popped, h.emitted.trans h'.emitted⟩

theorem Run.emitted_of_outQ_eq_nil {r : Run} (h : r.inst.state.outQ = []) : r.emitted = r.popped := by
  rw [Run.emitted, h, List.append_nil]

/-- In a consistent run an enabled engine step is a step of the machine to a next state. -/
theorem Run.Consistent.exists_step {r : Run} (h : r.Consistent) (hen : r.enabled .engineStep = true) :
    ∃ t, r.inst.state.stepEnabled = true ∧ step r.inst.state = .next t ∧
      r.act .engineStep = { r with inst := { state := t, faultMark := none } } := by
  obtain ⟨t, ht, -⟩ := h.ready.next
  exact ⟨t, (Bool.and_eq_true_iff.1 hen).2, ht, Run.act_engineStep_next h.noFault ht⟩

theorem Run.Consistent.precedes_act {r : Run} (h : r.Consistent) (a : Action) : r.Precedes (r.act a) := by
  cases a with
  | hostPush w => exact ⟨List.prefix_append _ _, List.prefix_rfl, List.prefix_rfl⟩
  | hostPop =>
    cases hout : r.inst.state.outQ with
    | nil =>
      rw [Run.act_hostPop_nil hout]
      exact .refl r
    | cons w rest =>
      rw [Run.act_hostPop_cons hout]
      exact ⟨List.prefix_rfl, List.prefix_append _ _, by simp [Run.emitted, hout]⟩
  | engineStep =>
    by_cases hen : r.enabled .engineStep = true
    · obtain ⟨t, hstep, ht, hact⟩ := h.exists_step hen
      obtain ⟨_, emitted, -, hout, -⟩ := step_streams hstep ht
      rw [hact]
      exact ⟨List.prefix_rfl, List.prefix_rfl, by simp [Run.emitted, hout]⟩
    · rw [Run.act_of_not_enabled h.ready.seqLegal (by simpa using hen)]
      exact .refl r

theorem Schedule.run_consistent {start : Run} (h : start.Consistent) (σ : Schedule) (n : Nat) :
    (σ.run start n).Consistent := by
  induction n with
  | zero => exact h
  | succ n ih => exact actionsKeepRunsConsistent _ _ ih

theorem Schedule.run_precedes {start : Run} (h : start.Consistent) (σ : Schedule) {n m : Nat} (hnm : n ≤ m) :
    (σ.run start n).Precedes (σ.run start m) := by
  induction m, hnm using Nat.le_induction with
  | base => exact .refl _
  | succ m _ ih => exact ih.trans ((σ.run_consistent h m).precedes_act _)

/-! ## Weak fairness -/

/-- From instant `n` on, let the action `a` be enabled and wanted while the measure `μ` is not 0, let no action raise `μ` then
and let `a` lower it. Then `μ` is 0 at some instant of a fair run. -/
theorem Schedule.Fair.reaches_zero {σ : Schedule} {start : Run} (hfair : σ.Fair start) (μ : Run → Nat) (a : Action) (n : Nat)
    (hready : ∀ m, n ≤ m → μ (σ.run start m) ≠ 0 → (σ.run start m).enabled a = true ∧ σ.wants m a)
    (hle : ∀ m, n ≤ m → μ (σ.run start m) ≠ 0 → ∀ b, μ ((σ.run start m).act b) ≤ μ (σ.run start m))
    (hlt : ∀ m, n ≤ m → μ (σ.run start m) ≠ 0 → μ ((σ.run start m).act a) < μ (σ.run start m)) :
    ∃ m, n ≤ m ∧ μ (σ.run start m) = 0 := by
  induction hv : μ (σ.run start n) using Nat.strong_induction_on generalizing n with
  | _ v ih =>
    by_contra! hpos
    obtain ⟨k, hk, hact⟩ := hfair a n fun m hm => hready m hm (hpos m hm)
    have hmono : μ (σ.run start k) ≤ μ (σ.run start n) :=
      Nat.le_induction (P := fun m _ => μ (σ.run start m) ≤ μ (σ.run start n)) le_rfl
        (fun m hm ih => (hle m hm (hpos m hm) _).trans ih) k hk
    have hdec : μ (σ.run start (k + 1)) < μ (σ.run start k) := by
      rw [Schedule.run_succ, hact]
      exact hlt k hk (hpos k hk)
    have hafter : ∀ m, k + 1 ≤ m → n ≤ m := fun m hm => by omega
    obtain ⟨m, hm, h0⟩ := ih _ (by omega) (k + 1) (fun m hm => hready m (hafter m hm)) (fun m hm => hle m (hafter m hm))
      (fun m hm => hlt m (hafter m hm)) rfl
    exact hpos m (hafter m hm) h0

/-! ## The work of the engine -/

/-- How many engine steps the first `count` words pushed can still need: thirteen for each of them that waits, and the rest
of the classification in progress. -/
def Run.workFor (count : Nat) (r : Run) : Nat :=
  13 * (count - (r.pushed.length - r.inst.state.inQ.length)) + r.inst.state.stagesLeft

section
variable {r : Run} {count : Nat}

theorem Run.Consistent.length_inQ_le (h : r.Consistent) : r.inst.state.inQ.length ≤ r.pushed.length := by
  obtain ⟨before, current, h⟩ := h
  rw [h.pushed, List.length_append]
  exact Nat.le_add_left _ _

/-- The host's actions give the words already pushed no more work. -/
theorem Run.workFor_act_of_ne_engineStep {a : Action} (ha : a ≠ .engineStep) :
    (r.act a).workFor count = r.workFor count := by
  cases a with
  | engineStep => exact absurd rfl ha
  | hostPush w =>
    rw [Run.workFor, Run.act_hostPush_pushed, Run.act_hostPush_state, State.hostPush_inQ, List.length_append,
      List.length_append, Nat.add_sub_add_right]
    rfl
  | hostPop =>
    cases hout : r.inst.state.outQ with
    | nil => rw [Run.act_hostPop_nil hout]
    | cons w rest => rw [Run.act_hostPop_cons hout]; rfl

/-- While pushed words need work, the engine has an enabled step (R213). -/
theorem Run.Consistent.enabled_of_workFor (h : r.Consistent) (hcount : count ≤ r.pushed.length)
    (hwork : r.workFor count ≠ 0) : r.enabled .engineStep = true := by
  by_contra hen
  have hstep : r.inst.state.stepEnabled = false := by simpa [Run.enabled, h.noFault] using hen
  obtain ⟨h0, hq⟩ := State.quiescent_iff.1 ((State.quiescent_iff_not_stepEnabled h.ready.seqLegal).2 hstep)
  exact hwork (by simp [Run.workFor, State.stagesLeft, h0, hq, hcount])

/-- While pushed words need work, an engine step takes some off. -/
theorem Run.Consistent.workFor_engineStep_lt (h : r.Consistent) (hcount : count ≤ r.pushed.length)
    (hwork : r.workFor count ≠ 0) : (r.act .engineStep).workFor count < r.workFor count := by
  obtain ⟨t, hstep, ht, hact⟩ := h.exists_step (h.enabled_of_workFor hcount hwork)
  have hin := h.length_inQ_le
  have hle := t.stagesLeft_le
  rw [hact]
  unfold Run.workFor at hwork ⊢
  dsimp only
  obtain ⟨h0, hq⟩ | ⟨hq, hstages⟩ := step_work_cases hstep ht
  · have hidle := (State.stagesLeft_eq_zero_iff h.ready.seqLegal).2 h0
    omega
  · rw [hq]
    omega

/-- Words that need no more work are answered. -/
theorem Run.Consistent.answered_of_workFor_eq_zero (h : r.Consistent) {words : List Word} (hwords : words <+: r.pushed)
    (hwork : r.workFor words.length = 0) : resultsFor Config.store words <+: r.emitted := by
  have hlegal := h.ready.seqLegal
  obtain ⟨before, current, h⟩ := h
  unfold Run.workFor at hwork
  have h0 := (State.stagesLeft_eq_zero_iff hlegal).1 (by omega)
  have hconsumed : words <+: before ++ current := by
    have hlen := congrArg List.length h.pushed
    rw [List.length_append] at hlen
    exact List.prefix_of_prefix_length_le hwords (h.pushed ▸ List.prefix_append _ _) (by omega)
  obtain ⟨more, hmore⟩ := hconsumed
  rw [← h.resultsFor_consumed h0, ← hmore]
  exact resultsFor_prefix_append _ words more

end

/-! ## Every image is answered, and every answer popped -/

section
variable {σ : Schedule} {start : Run} (h : start.Consistent) (hfair : σ.Fair start) (n : Nat)
include h hfair

/-- R225: the words pushed so far are eventually answered. -/
theorem Schedule.Fair.answered :
    ∃ m, n ≤ m ∧ resultsFor Config.store (σ.run start n).pushed <+: (σ.run start m).emitted := by
  have hpushed : ∀ m, n ≤ m → (σ.run start n).pushed <+: (σ.run start m).pushed := fun m hm =>
    (σ.run_precedes h hm).pushed
  have hcons := σ.run_consistent h
  obtain ⟨m, hm, hwork⟩ := hfair.reaches_zero (Run.workFor (σ.run start n).pushed.length) .engineStep n
    (fun m hm hwork => ⟨(hcons m).enabled_of_workFor (hpushed m hm).length_le hwork, trivial⟩)
    (fun m hm hwork b => by
      by_cases hb : b = .engineStep
      · exact hb ▸ ((hcons m).workFor_engineStep_lt (hpushed m hm).length_le hwork).le
      · exact (Run.workFor_act_of_ne_engineStep hb).le)
    (fun m hm hwork => (hcons m).workFor_engineStep_lt (hpushed m hm).length_le hwork)
  exact ⟨m, hm, (hcons m).answered_of_workFor_eq_zero (hpushed m hm) hwork⟩

/-- R225: a host that intends to pop whenever a word waits eventually has popped what was emitted so far. -/
theorem Schedule.Fair.popped (hhost : σ.HostReceives start) :
    ∃ m, n ≤ m ∧ (σ.run start n).emitted <+: (σ.run start m).popped := by
  have hcons := σ.run_consistent h
  have hout : ∀ m, n ≤ m → (σ.run start n).emitted.length - (σ.run start m).popped.length ≠ 0 →
      (σ.run start m).inst.state.outQ ≠ [] := fun m hm hleft hnil => by
    have hlen := (σ.run_precedes h hm).emitted.length_le
    rw [Run.emitted_of_outQ_eq_nil hnil] at hlen
    omega
  obtain ⟨m, hm, hdone⟩ := hfair.reaches_zero (fun r => (σ.run start n).emitted.length - r.popped.length) .hostPop n
    (fun m hm hleft => ⟨by simpa [Run.enabled] using hout m hm hleft, hhost m (hout m hm hleft)⟩)
    (fun m _ _ b => Nat.sub_le_sub_left ((hcons m).precedes_act b).popped.length_le _)
    (fun m hm hleft => by
      obtain ⟨w, rest, hq⟩ := List.exists_cons_of_ne_nil (hout m hm hleft)
      rw [Run.act_hostPop_cons hq, List.length_append, List.length_singleton]
      omega)
  exact ⟨m, hm, List.prefix_of_prefix_length_le (σ.run_precedes h hm).emitted (List.prefix_append _ _) (by omega)⟩

end

/-- Settles O60: the run stays consistent; the engine's fairness answers the words pushed, and the host's has the answers
popped. -/
theorem fairRunsAnswerEveryImage : Obligations.FairRunsAnswerEveryImage := by
  intro σ start h hfair n
  obtain ⟨m, hm, hanswered⟩ := hfair.answered h n
  refine ⟨(σ.run_consistent h n).emitted_prefix, ⟨m, hm, hanswered⟩, fun hhost => ?_⟩
  obtain ⟨k, hk, hpopped⟩ := hfair.popped h m hhost
  exact ⟨k, hm.trans hk, hanswered.trans hpopped⟩

end Sys2Proof.Machine
end

section
/-! SUPPORT. How an operation can fail to step, what becomes of an instance that a fault has stopped, and the reset state; the
statements of 60_exceptions.md and 70_reset_and_hazards.md settled from these. -/

namespace Sys2Proof.Machine

/-! ## How an operation can fail to step -/

/-- `LOAD` consumes a word or holds: it always answers a next state. -/
theorem exists_execLoad_next (s : State) : ∃ t, execLoad s = .next t := by
  cases hq : s.inQ with
  | nil => exact ⟨_, execLoad_nil hq⟩
  | cons w rest => exact ⟨_, execLoad_cons hq⟩

theorem onSource_readAll3_fault {C H W : Nat} {buffer : Buffer} {b : BitBuffer C H W} {k : Map3 Bool C H W → State} {f : Fault}
    (h : onSource (readAll3 buffer b) k = .fault f) : ∃ index, f = .unwrittenRead buffer index := by
  obtain ⟨_, _, _, -, hf⟩ := readAll3_error (onSource_fault_iff.1 h)
  exact ⟨_, hf⟩

theorem onSource_readAll1_fault {α : Type} [Inhabited α] {n : Nat} {buffer : Buffer} {b : VecBuffer α n}
    {k : (Fin n → α) → State} {f : Fault} (h : onSource (readAll1 buffer b) k = .fault f) :
    ∃ index, f = .unwrittenRead buffer index := by
  obtain ⟨_, -, hf⟩ := readAll1_error (onSource_fault_iff.1 h)
  exact ⟨_, hf⟩

/-- An operation faults only by a read of its own source (R246). -/
theorem exec_fault {i : Instr} {s : State} {f : Fault} (h : exec i s = .fault f) :
    i ≠ .load ∧ ∃ index, f = .unwrittenRead i.source index := by
  cases i with
  | load =>
    obtain ⟨t, ht⟩ := exists_execLoad_next s
    cases ht.symm.trans h
  | dense1 | sign | dense2 | argmax => exact ⟨by decide, onSource_readAll1_fault h⟩
  | emit => exact ⟨by decide, _, (readRegister_eq_error.1 (onSource_fault_iff.1 h)).2⟩
  | pad1 | conv1 | pool1 | pad2 | conv2 | pool2 | flatten => exact ⟨by decide, onSource_readAll3_fault h⟩

/-- Every operation has a meaning: none is refused. -/
theorem exec_ne_refused (i : Instr) (s : State) (q : Refusal) : exec i s ≠ .refused q := by
  intro h
  by_cases hi : i = .load
  · subst hi
    obtain ⟨t, ht⟩ := exists_execLoad_next s
    cases ht.symm.trans h
  · obtain ⟨_, _, _, he, -⟩ := exec_eq_onSource s hi
    exact onSource_not_refused (he ▸ h)

/-! ## An instance that a fault has stopped -/

theorem Instance.engineStep_of_faultMark {e : Instance} {f : Fault} (h : e.faultMark = some f) : e.engineStep = e := by
  simp only [Instance.engineStep, h]

/-- A marked instance takes no engine step, and the host only moves words that are already emitted (R252, R253). -/
theorem Run.act_of_faultMark {r : Run} {f : Fault} (h : r.inst.faultMark = some f) (a : Action) :
    (r.act a).inst.faultMark = some f ∧ (r.act a).emitted = r.emitted ∧
      (r.act a).inst.state.seq = r.inst.state.seq := by
  cases a with
  | engineStep =>
    have hact : r.act .engineStep = r := congrArg (fun e => { r with inst := e }) (Instance.engineStep_of_faultMark h)
    rw [hact]
    exact ⟨h, rfl, rfl⟩
  | hostPush w => exact ⟨h, rfl, rfl⟩
  | hostPop =>
    cases hout : r.inst.state.outQ with
    | nil =>
      rw [Run.act_hostPop_nil hout]
      exact ⟨h, rfl, rfl⟩
    | cons w rest =>
      rw [Run.act_hostPop_cons hout]
      exact ⟨h, by simp [Run.emitted, hout], rfl⟩

/-! ## The statements settled -/

/-- Settles O28: an operation with its source defined steps, and what it writes is the source of the operation after it. -/
theorem readyStatesStepToReadyStates : Obligations.ReadyStatesStepToReadyStates := fun _ h => h.next

/-- Settles O26: an operation other than `LOAD` fails to step only when the read of its source does. -/
theorem onlyUnwrittenSourcesFault : Obligations.OnlyUnwrittenSourcesFault := fun i s =>
  ⟨fun _ => exec_fault, exec_ne_refused i s⟩

/-- Settles O58: by induction on the actions, none of which unmarks the instance. -/
theorem faultsAreForGood : Obligations.FaultsAreForGood := by
  refine ⟨fun s f h => by simp only [Instance.engineStep, h], fun r f actions hmark => ?_⟩
  induction actions generalizing r with
  | nil => exact ⟨hmark, rfl, rfl⟩
  | cons a actions ih =>
    obtain ⟨hmark', hemitted, hseq⟩ := Run.act_of_faultMark hmark a
    obtain ⟨hmark'', hemitted', hseq'⟩ := ih (r.act a) hmark'
    exact ⟨hmark'', hemitted'.trans hemitted, hseq'.trans hseq⟩

/-- Settles O7: after reset `LOAD` is next, and no word of an image has been consumed. -/
theorem resetIsReady : Obligations.ResetIsReady :=
  State.ready_iff.2 ⟨.load, rfl, fun hne => absurd rfl hne, fun _ _ h => absurd h (Nat.not_lt_zero _)⟩

end Sys2Proof.Machine
end
